-- ==== Sys2Proof/Word.lean ====
section
/-! DEFINITION. The two machine words of the engine: the octet and the 16-bit register
(`00_scope.md` R12, R13). -/

namespace Sys2Proof

/-- A byte, the spec's "octet": 8 bits, value 0 to 255 (R12). -/
abbrev Byte := BitVec 8

/-- A register, or any two-octet field: 16 bits (R12). -/
abbrev Word := BitVec 16

end Sys2Proof
end

