-- ==== Sys2Proof/Config.lean ====
section
/-! DEFINITION. The configuration of the engine: the named parameters of `00_scope.md` R11, which the
source leaves open and which stay fixed for the life of a machine (`10_state.md` R44), and the one
free value of the model. The default values stand in `Machine/Params.lean`. -/

namespace Sys2Proof

/-- The four violation kinds of the validator (`43_validator.md` R211). The set is closed. -/
inductive Violation where
  | lengthMismatch
  | checksumMismatch
  | addressMismatch
  | unsupportedFunction
  deriving DecidableEq, Repr

/-- Where the filler of an odd-length string goes: the parameter `STR_PAD` (R11). -/
inductive StrPad where
  | leading
  | trailing
  deriving DecidableEq, Repr

/-- `VIOL_PRIORITY` (R11): an ordering of the four violation kinds, the highest priority first. -/
structure ViolPriority where
  first  : Violation
  second : Violation
  third  : Violation
  fourth : Violation
  deriving DecidableEq, Repr

/-- The type column of the default register table (`20_memory.md` R70). `int24`, `uint24`, `int48`
and `uint48` are names of rows only, no tags of the codec (R71). -/
inductive TableType where
  | int8 | uint8 | int16 | uint16 | int24 | uint24 | int32 | uint32 | int48 | uint48 | int64 | uint64
  | real32 | real64
  | string (n : Nat)
  deriving DecidableEq, Repr

/-- One row of `TABLE_KEYS` (R11): a key of the register table and the type it is meant for. -/
structure TableKey where
  start : Word
  count : Word
  type  : TableType
  deriving DecidableEq, Repr

/-- The named parameters of R11, all but `ESA`, which is a register of the engine
(`10_state.md` R31). They are plain data, so that every statement over all states holds for every
value of every parameter. -/
structure Config where
  /-- `EXC_FUNC`: the exception code sent for UnsupportedFunction. -/
  excFunc      : Byte
  /-- `EXC_LEN`: the exception code sent for LengthMismatch. -/
  excLen       : Byte
  /-- `EXC_CRC`: the exception code sent for ChecksumMismatch. -/
  excCrc       : Byte
  /-- `EXC_ADDR`: the exception code sent for AddressMismatch. -/
  excAddr      : Byte
  /-- `VIOL_PRIORITY`: which violation names the code when several are reported. -/
  violPriority : ViolPriority
  /-- `FILL`: the filler byte of odd-width values and odd-length strings. -/
  fill         : Byte
  /-- `STR_PAD`: where the filler of an odd-length string goes. -/
  strPad       : StrPad
  /-- `RX_MAX`: the longest request buffer the engine accepts; `none` is unbounded. -/
  rxMax        : Option Nat
  /-- `TABLE_KEYS`: the keys of the default register table. -/
  tableKeys    : List TableKey
  /-- `TABLE_VALUES`: the map from each key of `tableKeys` to its payload, written as the payloads in the
  order of the keys; `none` where it is left OPEN, as R11 leaves it. -/
  tableValues  : Option (List (List Byte))
  deriving DecidableEq, Repr

/-- FREE VALUE (log entry 5): what VALIDATE compares `receivedCrc` with when the Request it is handed
carries fewer than six raw octets. No parser produces such a Request (`42_parser.md` R195, R196), so
`43_validator.md` R216 states no checksum for it; nothing in the model fixes one. -/
opaque Config.shortRawCrc : List Byte → Word

end Sys2Proof
end

