-- ==== Sys2Proof/Syntax.lean ====
section
/-! DEFINITION. The syntax of the engine: the operand types of its operations, the local errors, and
`Instr`, with one constructor for every row of `spec/opcode_table.json`; beside them the form in which
an instruction reaches the engine, a `Command`: the row's `format` and its octets. -/

namespace Sys2Proof

/-- The transport selector (`30_encoding.md` R105): 0 = Streaming, 1 = Serial. The host names it for
each request; the engine never guesses it (R90). -/
inductive Transport where
  | streaming
  | serial
  deriving DecidableEq, Repr

/-- A transport with what its response carries besides: the Streaming forms of the builders take a
transaction id, the Serial forms take none (`45_response_builder.md` R251). -/
inductive Link where
  | streaming (tid : Word)
  | serial
  deriving DecidableEq, Repr

/-- The fields common to both Request variants (`10_state.md` R34). `startRegister` and
`registerCount` are 16-bit patterns (R35). -/
structure RequestFields where
  slaveAddress  : Byte
  functionCode  : Byte
  startRegister : Word
  registerCount : Word
  rawBytes      : List Byte
  deriving DecidableEq, Repr

/-- The Request record, a variant over the two transports (`10_state.md` R36). -/
inductive Request where
  | streaming (transactionId declaredLength : Word) (fields : RequestFields)
  | serial (receivedCrc : Word) (fields : RequestFields)
  deriving DecidableEq, Repr

/-- The Response record (`10_state.md` R39): Positive carries the payload, Negative the function code
with its high bit set and the exception code. -/
inductive Response where
  | positive (link : Link) (slaveAddress functionCode : Byte) (payload : List Byte)
  | negative (link : Link) (slaveAddress functionCode exceptionCode : Byte)
  deriving DecidableEq, Repr

/-- The set `reasons` of a ValidationResult (`10_state.md` R38), one membership bit for each kind. -/
structure Reasons where
  lengthMismatch      : Bool
  checksumMismatch    : Bool
  addressMismatch     : Bool
  unsupportedFunction : Bool
  deriving DecidableEq, Repr

/-- The result of VALIDATE (`43_validator.md` R210). -/
structure ValidationResult where
  ok      : Bool
  reasons : Reasons
  deriving DecidableEq, Repr

/-- The closed tag set of the codec (`40_codec.md` R140). `string n` is a tag for n from 1 to 255. -/
inductive Tag where
  | bool | int8 | uint8 | int16 | uint16 | int32 | uint32 | int64 | uint64 | real32 | real64
  | string (n : Nat)
  deriving DecidableEq, Repr

/-- TypedValue (`10_state.md` R40). An integer is the mathematical number, whichever integer tag it is
meant for (log entry 9); a floating-point datum is its bit pattern (R149); a character is one byte
(R151). -/
inductive TypedValue where
  | bool (v : Bool)
  | int (v : Int)
  | real32 (pattern : BitVec 32)
  | real64 (pattern : BitVec 64)
  | string (chars : List Byte)
  deriving DecidableEq, Repr

/-- What a tag row of the opcode table is used for: the three codec operations that take a tag. -/
inductive TagUse where
  | widthOf
  | decode (bytes : List Byte)
  | encode (value : TypedValue)
  deriving DecidableEq, Repr

/-- An entry given to LOAD, and an object of the register table: a key (start, count) and its
payload (`10_state.md` R33, `44_register_store.md` R234). -/
structure Entry where
  start   : Word
  count   : Word
  payload : List Byte
  deriving DecidableEq, Repr

/-- The names of the error taxonomy (`60_exceptions.md` R290, R291). -/
inductive ErrorName where
  | frameTooShort
  | protocolIdMismatch
  | invalidDataType
  | checksumMismatch
  | addressMismatch
  | unsupportedFunction
  | registerNotDefined
  | lengthMismatch
  deriving DecidableEq, Repr

/-- The local errors an operation RAISES, with the value recorded (`60_exceptions.md` R291, R298).
The other five names of the taxonomy are reported, not raised: four in `reasons`, one as the answer
0x02 of DISPATCH. -/
inductive LocalError where
  /-- Raised by PARSE_S and PARSE_R; records the buffer length. -/
  | frameTooShort (length : Nat)
  /-- Raised by PARSE_S; records the PID value. -/
  | protocolIdMismatch (pid : Word)
  /-- Raised by WIDTHOF, DECODE and ENCODE; records the tag word. -/
  | invalidDataType (tag : Word)
  deriving DecidableEq, Repr

/-- The instructions: one constructor for each row of `spec/opcode_table.json`, in the table's order.

A frame row carries every field of its layout that is not constant, the computed ones (LEN,
BYTECOUNT, the CRC16 of a response) among them, so that encoding drops no bit; the builders compute
those fields and never read them. -/
inductive Instr where
  -- class request: a received frame, answered by DISPATCH (`30_encoding.md` R91, R92)
  | streamRead03 (tid : Word) (addr : Byte) (start count : Word) (extra : List Byte)
  | streamRead04 (tid : Word) (addr : Byte) (start count : Word) (extra : List Byte)
  | serialRead03 (addr : Byte) (start count crc : Word)
  | serialRead04 (addr : Byte) (start count crc : Word)
  -- class response: a frame the builders emit (`30_encoding.md` R93 to R96)
  | streamPos (tid len : Word) (addr func byteCount : Byte) (data : List Byte)
  | streamNeg (tid : Word) (addr : Byte) (func : BitVec 7) (errCode : Byte)
  | serialPos (addr func byteCount : Byte) (data : List Byte) (crc : Word)
  | serialNeg (addr : Byte) (func : BitVec 7) (errCode : Byte) (crc : Word)
  -- class exception_code: an ERRCODE with the frame it is carried in (`30_encoding.md` R99)
  | exc01 (link : Link) (addr func : Byte)
  | exc02 (link : Link) (addr func : Byte)
  | exc03 (link : Link) (addr func : Byte)
  | exc04 (link : Link) (addr func : Byte)
  | exc05 (link : Link) (addr func : Byte)
  | exc06 (link : Link) (addr func : Byte)
  | exc07 (link : Link) (addr func : Byte)
  | exc08 (link : Link) (addr func : Byte)
  | exc0A (link : Link) (addr func : Byte)
  | exc0B (link : Link) (addr func : Byte)
  -- class tag: a tag with the codec operation it is used in (`30_encoding.md` R103)
  | tagBool (use : TagUse)
  | tagInt8 (use : TagUse)
  | tagUint8 (use : TagUse)
  | tagInt16 (use : TagUse)
  | tagUint16 (use : TagUse)
  | tagInt32 (use : TagUse)
  | tagUint32 (use : TagUse)
  | tagInt64 (use : TagUse)
  | tagUint64 (use : TagUse)
  | tagReal32 (use : TagUse)
  | tagReal64 (use : TagUse)
  | tagString (n : BitVec 12) (use : TagUse)
  -- class operation: the thirteen operations (`30_encoding.md` R104)
  | crc16 (bytes : List Byte)
  | parseS (bytes : List Byte)
  | parseR (bytes : List Byte)
  | validate (request : Request) (expected : Byte)
  | widthOf (tag : Word)
  | decode (tag : Word) (bytes : List Byte)
  | encode (tag : Word) (value : TypedValue)
  | lookup (start count : Word)
  | load (entries : List Entry)
  | buildPos (link : Link) (addr func : Byte) (payload : List Byte)
  | buildNeg (link : Link) (addr func exc : Byte)
  | dispatch (transport : Transport) (raw : List Byte)
  | setEsa (addr : Byte)
  deriving DecidableEq, Repr

/-- The `format` column of the opcode table: which of its nine encodings a command is written in. The
six frame formats are those of `30_encoding.md` R90; like the transport, the format is named from
outside and never read from the octets (R114). -/
inductive Format where
  | streamReq
  | serialReq
  | streamPos
  | streamNeg
  | serialPos
  | serialNeg
  | errCode8
  | tag16
  | opSel4
  deriving DecidableEq, Repr

/-- One command as the host hands it to the engine: a format and the octets written in it. -/
structure Command where
  format : Format
  bytes  : List Byte
  deriving DecidableEq, Repr

end Sys2Proof
end

