-- ==== Sys2Proof/Machine/Operands.lean ====
section
/-! DEFINITION. Operand forms: byte sequences, multi-octet fields and their signed readings
(`00_scope.md` R13 to R15, `30_encoding.md` R97), the tag word (R103), and the operands a Request
supplies to the later stages. -/

namespace Sys2Proof.Machine

open Sys2Proof

/-- `b[i]`, the byte at zero-based offset i (R14). Every use stands behind the length test that puts
i inside `b`. -/
def byteAt (b : List Byte) (i : Nat) : Byte := b.getD i 0

/-- The 16-bit value of two octets, the first the high one (R15, `20_memory.md` R61). -/
def wordOf (hi lo : Byte) : Word := hi ++ lo

/-- The high byte `v[15:8]` (R13). -/
def hiByte (v : Word) : Byte := v.extractLsb' 8 8

/-- The low byte `v[7:0]` (R13). -/
def loByte (v : Word) : Byte := v.extractLsb' 0 8

/-- `be16(b, i)`: a 16-bit field read big-endian at offset i (R15). -/
def be16 (b : List Byte) (i : Nat) : Word := wordOf (byteAt b i) (byteAt b (i + 1))

/-- `enc16(v)`: a 16-bit field written big-endian (R15). -/
def enc16 (v : Word) : List Byte := [hiByte v, loByte v]

/-- `beN(b)`: the unsigned number with `b[0]` most significant (R15). -/
def beNat (b : List Byte) : Nat := b.foldl (fun acc x => acc * 256 + x.toNat) 0

/-- `encN(v, N)`: N bytes, most significant first (R15). -/
def beBytes : Nat → Nat → List Byte
  | 0, _ => []
  | n + 1, v => BitVec.ofNat 8 (v / 256 ^ n) :: beBytes n v

/-- `sext_N(v)`: the N-bit pattern v read as a two's complement number (R15). -/
def sext (n v : Nat) : Int := if v < 2 ^ (n - 1) then (v : Int) else (v : Int) - 2 ^ n

/-- `first(b, n)` (R14). -/
def firstBytes (b : List Byte) (n : Nat) : List Byte := b.take n

/-- `last(b, n)` (R14). -/
def lastBytes (b : List Byte) (n : Nat) : List Byte := b.drop (b.length - n)

/-- `b[i..j]`, both ends included (R14). -/
def slice (b : List Byte) (i j : Nat) : List Byte := (b.drop i).take (j + 1 - i)

/-- `rep(x, n)` (R14). -/
def rep (x : Byte) (n : Nat) : List Byte := List.replicate n x

/-- Register i of a payload: payload bytes 2i (its high byte) and 2i + 1 (`20_memory.md` R63). -/
def payloadRegister (p : List Byte) (i : Nat) : Word := be16 p (2 * i)

/-- An entry LOAD accepts: 1 <= count <= 127 and a payload of exactly 2 x count bytes
(`44_register_store.md` R235). -/
def entryOk (e : Entry) : Bool :=
  decide (1 ≤ e.count.toNat ∧ e.count.toNat ≤ 127 ∧ e.payload.length = 2 * e.count.toNat)

/-- The transport bit (`30_encoding.md` R105). -/
def transportBit : Transport → Byte
  | .streaming => 0
  | .serial => 1

/-- The transport a transport octet names; the other 254 octets name none. -/
def transportOf (b : Byte) : Option Transport :=
  if b = 0 then some .streaming else if b = 1 then some .serial else none

/-- The common fields of a Request (`10_state.md` R34). -/
def requestFields : Request → RequestFields
  | .streaming _ _ f => f
  | .serial _ f => f

/-- The link a response to this Request goes out on: a Streaming response echoes the request's
`transactionId` (`45_response_builder.md` R251, `46_dispatcher.md` R270). -/
def requestLink : Request → Link
  | .streaming tid _ _ => .streaming tid
  | .serial _ _ => .serial

/-- The signed views of START and COUNT, "signed 16-bit as transmitted" (`10_state.md` R35). No
operation uses them. -/
def startSigned (f : RequestFields) : Int := sext 16 f.startRegister.toNat

/-- See `startSigned`. -/
def countSigned (f : RequestFields) : Int := sext 16 f.registerCount.toNat

/-- The tag word of a kind and a length: `kind = tag[15:12]`, `n = tag[11:0]` (R103). -/
def tagWord (kind : BitVec 4) (n : BitVec 12) : Word := kind ++ n

/-- `kind = tag[15:12]` (R103). -/
def tagKind (tag : Word) : Nat := (tag.extractLsb' 12 4).toNat

/-- `n = tag[11:0]` (R103). -/
def tagLength (tag : Word) : Nat := (tag.extractLsb' 0 12).toNat

/-- The eleven fixed-width kinds, 0x0 to 0xA (R103). -/
def fixedTag : Nat → Option Tag
  | 0 => some .bool
  | 1 => some .int8
  | 2 => some .uint8
  | 3 => some .int16
  | 4 => some .uint16
  | 5 => some .int32
  | 6 => some .uint32
  | 7 => some .int64
  | 8 => some .uint64
  | 9 => some .real32
  | 10 => some .real64
  | _ => none

/-- The tag a tag word spells; `none` is InvalidDataType (`40_codec.md` R141): a reserved kind, a
non-string kind with n not 0, STRING with n = 0 or n > 255. -/
def tagOfWord (tag : Word) : Option Tag :=
  if tagKind tag = 11 then
    if 1 ≤ tagLength tag ∧ tagLength tag ≤ 255 then some (.string (tagLength tag)) else none
  else if tagLength tag = 0 then fixedTag (tagKind tag) else none

end Sys2Proof.Machine
end

