-- ==== Sys2Proof/Machine/Crc.lean ====
section
/-! DEFINITION. The CRC-16/Modbus generator as a function on byte sequences (`41_crc16.md` R170 to
R178). The accumulator lives only inside one call (`10_state.md` R42). -/

namespace Sys2Proof.Machine

open Sys2Proof

/-- The polynomial constant (`00_scope.md` R10, R173). -/
def crcPoly : Word := 0xA001

/-- The seed (R10, R173). -/
def crcSeed : Word := 0xFFFF

/-- One round: the low bit is tested before the shift, the shift is logical (R170, R171). -/
def crcRound (a : Word) : Word :=
  if a.getLsbD 0 then (a >>> 1) ^^^ crcPoly else a >>> 1

/-- n rounds. -/
def crcRounds : Nat → Word → Word
  | 0, a => a
  | n + 1, a => crcRounds n (crcRound a)

/-- One byte step, `STEP(a, x) = ROUND^8(a ^ zext_16(x))` (R172). -/
def crcStep (a : Word) (x : Byte) : Word := crcRounds 8 (a ^^^ x.setWidth 16)

/-- The fold started at s, `CRC16_from(s, b)` (R172). -/
def crcFrom (s : Word) (b : List Byte) : Word := b.foldl crcStep s

/-- `CRC16(b)` (R170). -/
def crc16 (b : List Byte) : Word := crcFrom crcSeed b

end Sys2Proof.Machine
end

