-- ==== Sys2Proof/Machine/Frames.lean ====
section
/-! DEFINITION. The six wire frames: the two request layouts (`30_encoding.md` R91, R92), the two parsers (`42_parser.md`) and the layouts of the four
responses (`30_encoding.md` R93 to R96, `45_response_builder.md`). -/

namespace Sys2Proof.Machine

open Sys2Proof

/-- A STREAM_REQ frame (R91). -/
def streamReqBytes (tid : Word) (addr func : Byte) (start count : Word) (extra : List Byte) : List Byte :=
  enc16 tid ++ [0x00, 0x00, 0x00, 0x06] ++ [addr, func] ++ enc16 start ++ enc16 count ++ extra

/-- A SERIAL_REQ frame (R92). -/
def serialReqBytes (addr func : Byte) (start count crc : Word) : List Byte :=
  [addr, func] ++ enc16 start ++ enc16 count ++ enc16 crc

/-- PARSE_S (R191): the length is tested before the PID (R194). -/
def parseStreaming (b : List Byte) : Except LocalError Request :=
  if b.length < 12 then .error (.frameTooShort b.length)
  else if be16 b 2 ≠ 0 then .error (.protocolIdMismatch (be16 b 2))
  else .ok (.streaming (be16 b 0) (be16 b 4)
    { slaveAddress := byteAt b 6, functionCode := byteAt b 7, startRegister := be16 b 8,
      registerCount := be16 b 10, rawBytes := b })

/-- PARSE_R (R195): the CRC16 field is the last two octets, whatever the length. -/
def parseSerial (b : List Byte) : Except LocalError Request :=
  if b.length < 8 then .error (.frameTooShort b.length)
  else .ok (.serial (be16 b (b.length - 2))
    { slaveAddress := byteAt b 0, functionCode := byteAt b 1, startRegister := be16 b 2,
      registerCount := be16 b 4, rawBytes := b })

/-- The parser the transport selects (`46_dispatcher.md` R270). -/
def parse (t : Transport) (b : List Byte) : Except LocalError Request :=
  match t with
  | .streaming => parseStreaming b
  | .serial => parseSerial b

/-- A Serial frame: its body and the CRC16 of the body, high byte first (`20_memory.md` R62). -/
def serialFrame (body : List Byte) : List Byte := body ++ enc16 (crc16 body)

/-- A Streaming frame: TID, PID = 0x0000, LEN and what LEN counts (R93, R94). -/
def streamFrame (tid len : Word) (rest : List Byte) : List Byte :=
  enc16 tid ++ [0x00, 0x00] ++ enc16 len ++ rest

/-- `functionCode | 0x80` (`45_response_builder.md` R256). -/
def negativeFunction (func : Byte) : Byte := func ||| 0x80

/-- The octets of a Response (R93 to R96). -/
def responseBytes : Response → List Byte
  | .positive (.streaming tid) addr func p =>
      streamFrame tid (BitVec.ofNat 16 (3 + p.length)) ([addr, func, BitVec.ofNat 8 p.length] ++ p)
  | .positive .serial addr func p => serialFrame ([addr, func, BitVec.ofNat 8 p.length] ++ p)
  | .negative (.streaming tid) addr func exc => streamFrame tid 3 [addr, func, exc]
  | .negative .serial addr func exc => serialFrame [addr, func, exc]

/-- BUILD_POS (R252, R253); `none` for a payload longer than 255 bytes (R258). -/
def buildPositive (link : Link) (addr func : Byte) (p : List Byte) : Option (List Byte) :=
  if 255 < p.length then none else some (responseBytes (.positive link addr func p))

/-- BUILD_NEG (R254, R257): every operand value is accepted. -/
def buildNegative (link : Link) (addr func exc : Byte) : List Byte :=
  responseBytes (.negative link addr (negativeFunction func) exc)

/-- How a receiver tells the length of a Streaming response: 6 + LEN (`30_encoding.md` R112). -/
def streamResponseLength (b : List Byte) : Nat := 6 + (be16 b 4).toNat

/-- How a receiver tells the length of a Serial response: by bit 7 of FUNC, then 5, or
5 + BYTECOUNT (R112). -/
def serialResponseLength (b : List Byte) : Nat :=
  if (byteAt b 1).getLsbD 7 then 5 else 5 + (byteAt b 2).toNat

end Sys2Proof.Machine
end

