-- ==== Sys2Proof/Decode.lean ====
section
/-! DEFINITION. The decoder, total on every command, and the encoder.

The frame layouts are those of `30_encoding.md` R91 to R96, the tag word that of R103, the selector
that of R104, all read as `opcode_table.json` says (R115). How the operands of an operation follow its
selector is not in the spec, which says only that an operation's encoding is "its OPSEL value, its
transport bit where it has one and its operand bytes" (`95_test_vectors.md` section 4); the layout here
is the model's own (log entry 6) and no meaning depends on it. -/

namespace Sys2Proof

open Sys2Proof.Machine

/-- Why a command spells no instruction. -/
inductive DecodeError where
  /-- No octets at all. -/
  | emptyCommand
  /-- An OPSEL octet with a bit above bit 3 set: no selector is that wide (R104). -/
  | selectorTooWide (octet : Byte)
  /-- OPSEL 0xD to 0xF (R104, R110). -/
  | reservedOp (opsel : Byte)
  /-- Operand octets that are too few, too many, or name no transport, variant or kind of value. -/
  | badOperands
  /-- A response frame whose constant octets or length are not its format's (R93 to R96). -/
  | notOfFormat (format : Format)
  deriving DecidableEq, Repr

/-- The operation a tag word and its use stand for, where the word matches no tag row (R110). -/
def codecOperation (tag : Word) (use : TagUse) : Instr :=
  match use with
  | .widthOf => .widthOf tag
  | .decode b => .decode tag b
  | .encode v => .encode tag v

/-- STREAM_REQ (R91): an accepted request form, or, for a buffer that matches no request row, the
DISPATCH that R110 says the buffer still gets. -/
def decodeStreamReq (b : List Byte) : Instr :=
  if 12 ≤ b.length ∧ be16 b 2 = 0 ∧ be16 b 4 = 6 ∧ byteAt b 7 = 0x03 then
    .streamRead03 (be16 b 0) (byteAt b 6) (be16 b 8) (be16 b 10) (b.drop 12)
  else if 12 ≤ b.length ∧ be16 b 2 = 0 ∧ be16 b 4 = 6 ∧ byteAt b 7 = 0x04 then
    .streamRead04 (be16 b 0) (byteAt b 6) (be16 b 8) (be16 b 10) (b.drop 12)
  else .dispatch .streaming b

/-- SERIAL_REQ (R92), as `decodeStreamReq`. -/
def decodeSerialReq (b : List Byte) : Instr :=
  if b.length = 8 ∧ byteAt b 1 = 0x03 then
    .serialRead03 (byteAt b 0) (be16 b 2) (be16 b 4) (be16 b 6)
  else if b.length = 8 ∧ byteAt b 1 = 0x04 then
    .serialRead04 (byteAt b 0) (be16 b 2) (be16 b 4) (be16 b 6)
  else .dispatch .serial b

/-- STREAM_POS (R93): PID is 0x0000, the rest is fields. -/
def decodeStreamPos (b : List Byte) : Option Instr :=
  if 9 ≤ b.length ∧ be16 b 2 = 0 then
    some (.streamPos (be16 b 0) (be16 b 4) (byteAt b 6) (byteAt b 7) (byteAt b 8) (b.drop 9))
  else none

/-- STREAM_NEG (R94): PID is 0x0000, LEN is 0x0003, bit 7 of FUNC is 1. -/
def decodeStreamNeg (b : List Byte) : Option Instr :=
  if b.length = 9 ∧ be16 b 2 = 0 ∧ be16 b 4 = 3 ∧ (byteAt b 7).getLsbD 7 = true then
    some (.streamNeg (be16 b 0) (byteAt b 6) ((byteAt b 7).extractLsb' 0 7) (byteAt b 8))
  else none

/-- SERIAL_POS (R95): the CRC16 field is the last two octets. -/
def decodeSerialPos (b : List Byte) : Option Instr :=
  if 5 ≤ b.length then
    some (.serialPos (byteAt b 0) (byteAt b 1) (byteAt b 2) ((b.drop 3).take (b.length - 5))
      (be16 b (b.length - 2)))
  else none

/-- SERIAL_NEG (R96): bit 7 of FUNC is 1. -/
def decodeSerialNeg (b : List Byte) : Option Instr :=
  if b.length = 5 ∧ (byteAt b 1).getLsbD 7 = true then
    some (.serialNeg (byteAt b 0) ((byteAt b 1).extractLsb' 0 7) (byteAt b 2) (be16 b 3))
  else none

/-- A link operand: a transport octet and, for Streaming, the transaction id (R104, R105). -/
def decodeLink : List Byte → Option (Link × List Byte)
  | t :: r =>
    match transportOf t, r with
    | some .streaming, hi :: lo :: r => some (.streaming (wordOf hi lo), r)
    | some .serial, r => some (.serial, r)
    | _, _ => none
  | [] => none

/-- The row of an exception code (R99); a code that has none is still an operand of BUILD_NEG, which
passes any octet through (`45_response_builder.md` R255). -/
def exceptionRow (code : Byte) (link : Link) (addr func : Byte) : Instr :=
  match code.toNat with
  | 1 => .exc01 link addr func
  | 2 => .exc02 link addr func
  | 3 => .exc03 link addr func
  | 4 => .exc04 link addr func
  | 5 => .exc05 link addr func
  | 6 => .exc06 link addr func
  | 7 => .exc07 link addr func
  | 8 => .exc08 link addr func
  | 10 => .exc0A link addr func
  | 11 => .exc0B link addr func
  | _ => .buildNeg link addr func code

/-- ERRCODE8: the code, then the frame it is carried in. -/
def decodeErrCode : List Byte → Option Instr
  | code :: r =>
    match decodeLink r with
    | some (link, [addr, func]) => some (exceptionRow code link addr func)
    | _ => none
  | [] => none

/-- A TypedValue operand: a kind octet and the value's octets. -/
def decodeTyped : List Byte → Option TypedValue
  | kind :: r =>
    match kind.toNat with
    | 0 => if r = [0] then some (.bool false) else if r = [1] then some (.bool true) else none
    | 1 => some (.int (beNat r))
    | 2 => some (.int (Int.negSucc (beNat r)))
    | 3 => if r.length = 4 then some (.real32 (BitVec.ofNat 32 (beNat r))) else none
    | 4 => if r.length = 8 then some (.real64 (BitVec.ofNat 64 (beNat r))) else none
    | 5 => some (.string r)
    | _ => none
  | [] => none

/-- The use of a tag: a use octet and its operand. -/
def decodeUse : List Byte → Option TagUse
  | use :: r =>
    match use.toNat with
    | 0 => if r = [] then some .widthOf else none
    | 1 => some (.decode r)
    | 2 => (decodeTyped r).map .encode
    | _ => none
  | [] => none

/-- The row of a fixed-width tag kind (R103), or the operation with the tag word as it stands. -/
def fixedTagRow (tag : Word) (use : TagUse) : Instr :=
  match tagKind tag with
  | 0 => .tagBool use
  | 1 => .tagInt8 use
  | 2 => .tagUint8 use
  | 3 => .tagInt16 use
  | 4 => .tagUint16 use
  | 5 => .tagInt32 use
  | 6 => .tagUint32 use
  | 7 => .tagInt64 use
  | 8 => .tagUint64 use
  | 9 => .tagReal32 use
  | 10 => .tagReal64 use
  | _ => codecOperation tag use

/-- The row of a tag word (R103); a word that matches no row is answered by the codec operations,
with InvalidDataType (R110). -/
def tagRow (tag : Word) (use : TagUse) : Instr :=
  if tagKind tag = 11 then .tagString (tag.extractLsb' 0 12) use
  else if tagLength tag = 0 then fixedTagRow tag use
  else codecOperation tag use

/-- TAG16: the tag word, high octet first (`20_memory.md` R61), then its use. -/
def decodeTag : List Byte → Option Instr
  | hi :: lo :: r => (decodeUse r).map (tagRow (wordOf hi lo))
  | _ => none

/-- The operands of VALIDATE: the variant, the fields of the record, `expected`, the raw octets. -/
def decodeValidate : List Byte → Option Instr
  | v :: r =>
    match transportOf v, r with
    | some .streaming, t1 :: t0 :: l1 :: l0 :: a :: f :: s1 :: s0 :: c1 :: c0 :: e :: raw =>
      some (.validate (.streaming (wordOf t1 t0) (wordOf l1 l0)
        ⟨a, f, wordOf s1 s0, wordOf c1 c0, raw⟩) e)
    | some .serial, k1 :: k0 :: a :: f :: s1 :: s0 :: c1 :: c0 :: e :: raw =>
      some (.validate (.serial (wordOf k1 k0) ⟨a, f, wordOf s1 s0, wordOf c1 c0, raw⟩) e)
    | _, _ => none
  | [] => none

/-- The entries of LOAD: start, count, payload length and payload of each, to the end of the octets.
The first argument bounds the number of entries. -/
def decodeEntries : Nat → List Byte → Option (List Entry)
  | _, [] => some []
  | fuel + 1, s1 :: s0 :: c1 :: c0 :: n1 :: n0 :: r =>
    let n := (wordOf n1 n0).toNat
    if n ≤ r.length then
      (decodeEntries fuel (r.drop n)).map (⟨wordOf s1 s0, wordOf c1 c0, r.take n⟩ :: ·)
    else none
  | _, _ => none

/-- The operands of the operation with this OPSEL (R104), for OPSEL 0x0 to 0xC. -/
def decodeOperands (opsel : Nat) (r : List Byte) : Option Instr :=
  match opsel with
  | 0 => some (.crc16 r)
  | 1 => some (.parseS r)
  | 2 => some (.parseR r)
  | 3 => decodeValidate r
  | 4 => match r with
    | [hi, lo] => some (.widthOf (wordOf hi lo))
    | _ => none
  | 5 => match r with
    | hi :: lo :: b => some (.decode (wordOf hi lo) b)
    | _ => none
  | 6 => match r with
    | hi :: lo :: v => (decodeTyped v).map (.encode (wordOf hi lo))
    | _ => none
  | 7 => match r with
    | [s1, s0, c1, c0] => some (.lookup (wordOf s1 s0) (wordOf c1 c0))
    | _ => none
  | 8 => (decodeEntries r.length r).map .load
  | 9 => match decodeLink r with
    | some (link, addr :: func :: p) => some (.buildPos link addr func p)
    | _ => none
  | 10 => match decodeLink r with
    | some (link, [addr, func, exc]) => some (.buildNeg link addr func exc)
    | _ => none
  | 11 => match r with
    | t :: raw => (transportOf t).map (.dispatch · raw)
    | [] => none
  | 12 => match r with
    | [addr] => some (.setEsa addr)
    | _ => none
  | _ => none

/-- OPSEL4: the selector in bits 3 to 0 of the first octet, then the operands. -/
def decodeOperation : List Byte → Except DecodeError Instr
  | [] => .error .emptyCommand
  | sel :: r =>
    if 16 ≤ sel.toNat then .error (.selectorTooWide sel)
    else if 13 ≤ sel.toNat then .error (.reservedOp sel)
    else match decodeOperands sel.toNat r with
      | some i => .ok i
      | none => .error .badOperands

/-- A decoded operand or the named rejection. -/
def orReject (e : DecodeError) : Option Instr → Except DecodeError Instr
  | some i => .ok i
  | none => .error e

/-- The decoder. -/
def decode (c : Command) : Except DecodeError Instr :=
  match c.format with
  | .streamReq => .ok (decodeStreamReq c.bytes)
  | .serialReq => .ok (decodeSerialReq c.bytes)
  | .streamPos => orReject (.notOfFormat .streamPos) (decodeStreamPos c.bytes)
  | .streamNeg => orReject (.notOfFormat .streamNeg) (decodeStreamNeg c.bytes)
  | .serialPos => orReject (.notOfFormat .serialPos) (decodeSerialPos c.bytes)
  | .serialNeg => orReject (.notOfFormat .serialNeg) (decodeSerialNeg c.bytes)
  | .errCode8 => orReject .badOperands (decodeErrCode c.bytes)
  | .tag16 => orReject .badOperands (decodeTag c.bytes)
  | .opSel4 => decodeOperation c.bytes

/-! The encoder, from the same tables. -/

/-- A link operand. -/
def encodeLink : Link → List Byte
  | .streaming tid => transportBit .streaming :: enc16 tid
  | .serial => [transportBit .serial]

/-- The octets of a magnitude, most significant first, as few as hold it (at least one). -/
def natBytes (n : Nat) : List Byte := beBytes (Nat.log2 n / 8 + 1) n

/-- A TypedValue operand. -/
def encodeTyped : TypedValue → List Byte
  | .bool v => [0, if v then 1 else 0]
  | .int (.ofNat n) => 1 :: natBytes n
  | .int (.negSucc n) => 2 :: natBytes n
  | .real32 p => 3 :: beBytes 4 p.toNat
  | .real64 p => 4 :: beBytes 8 p.toNat
  | .string chars => 5 :: chars

/-- The use of a tag. -/
def encodeUse : TagUse → List Byte
  | .widthOf => [0]
  | .decode b => 1 :: b
  | .encode v => 2 :: encodeTyped v

/-- One entry of LOAD. -/
def encodeEntry (e : Entry) : List Byte :=
  enc16 e.start ++ enc16 e.count ++ enc16 (BitVec.ofNat 16 e.payload.length) ++ e.payload

/-- The operands of VALIDATE. -/
def encodeRequest (r : Request) (expected : Byte) : List Byte :=
  let f := requestFields r
  let common := [f.slaveAddress, f.functionCode] ++ enc16 f.startRegister ++ enc16 f.registerCount ++
    [expected] ++ f.rawBytes
  match r with
  | .streaming tid len _ => transportBit .streaming :: (enc16 tid ++ enc16 len ++ common)
  | .serial crc _ => transportBit .serial :: (enc16 crc ++ common)

/-- FUNC of a negative response: bit 7 is 1, bits 6 to 0 the request's (R94, R96). -/
def funcOctet (func : BitVec 7) : Byte := (1#1 ++ func : BitVec (1 + 7))

/-- A row of class exception_code. -/
def errCodeCommand (code : Byte) (link : Link) (addr func : Byte) : Command :=
  ⟨.errCode8, code :: (encodeLink link ++ [addr, func])⟩

/-- A row of class tag. -/
def tagCommand (kind : BitVec 4) (n : BitVec 12) (use : TagUse) : Command :=
  ⟨.tag16, enc16 (tagWord kind n) ++ encodeUse use⟩

/-- A row of class operation. -/
def operationCommand (opsel : Byte) (operands : List Byte) : Command :=
  ⟨.opSel4, opsel :: operands⟩

/-- The encoder: the format and the octets of an instruction. -/
def encode (i : Instr) : Command :=
  match i with
  | .streamRead03 tid addr start count extra =>
      ⟨.streamReq, streamReqBytes tid addr 0x03 start count extra⟩
  | .streamRead04 tid addr start count extra =>
      ⟨.streamReq, streamReqBytes tid addr 0x04 start count extra⟩
  | .serialRead03 addr start count crc => ⟨.serialReq, serialReqBytes addr 0x03 start count crc⟩
  | .serialRead04 addr start count crc => ⟨.serialReq, serialReqBytes addr 0x04 start count crc⟩
  | .streamPos tid len addr func byteCount data =>
      ⟨.streamPos, enc16 tid ++ [0x00, 0x00] ++ enc16 len ++ [addr, func, byteCount] ++ data⟩
  | .streamNeg tid addr func errCode =>
      ⟨.streamNeg, enc16 tid ++ [0x00, 0x00, 0x00, 0x03] ++ [addr, funcOctet func, errCode]⟩
  | .serialPos addr func byteCount data crc =>
      ⟨.serialPos, [addr, func, byteCount] ++ data ++ enc16 crc⟩
  | .serialNeg addr func errCode crc =>
      ⟨.serialNeg, [addr, funcOctet func, errCode] ++ enc16 crc⟩
  | .exc01 link addr func => errCodeCommand 0x01 link addr func
  | .exc02 link addr func => errCodeCommand 0x02 link addr func
  | .exc03 link addr func => errCodeCommand 0x03 link addr func
  | .exc04 link addr func => errCodeCommand 0x04 link addr func
  | .exc05 link addr func => errCodeCommand 0x05 link addr func
  | .exc06 link addr func => errCodeCommand 0x06 link addr func
  | .exc07 link addr func => errCodeCommand 0x07 link addr func
  | .exc08 link addr func => errCodeCommand 0x08 link addr func
  | .exc0A link addr func => errCodeCommand 0x0A link addr func
  | .exc0B link addr func => errCodeCommand 0x0B link addr func
  | .tagBool use => tagCommand 0x0 0 use
  | .tagInt8 use => tagCommand 0x1 0 use
  | .tagUint8 use => tagCommand 0x2 0 use
  | .tagInt16 use => tagCommand 0x3 0 use
  | .tagUint16 use => tagCommand 0x4 0 use
  | .tagInt32 use => tagCommand 0x5 0 use
  | .tagUint32 use => tagCommand 0x6 0 use
  | .tagInt64 use => tagCommand 0x7 0 use
  | .tagUint64 use => tagCommand 0x8 0 use
  | .tagReal32 use => tagCommand 0x9 0 use
  | .tagReal64 use => tagCommand 0xA 0 use
  | .tagString n use => tagCommand 0xB n use
  | .crc16 b => operationCommand 0x00 b
  | .parseS b => operationCommand 0x01 b
  | .parseR b => operationCommand 0x02 b
  | .validate r expected => operationCommand 0x03 (encodeRequest r expected)
  | .widthOf tag => operationCommand 0x04 (enc16 tag)
  | .decode tag b => operationCommand 0x05 (enc16 tag ++ b)
  | .encode tag v => operationCommand 0x06 (enc16 tag ++ encodeTyped v)
  | .lookup start count => operationCommand 0x07 (enc16 start ++ enc16 count)
  | .load es => operationCommand 0x08 (es.flatMap encodeEntry)
  | .buildPos link addr func p => operationCommand 0x09 (encodeLink link ++ [addr, func] ++ p)
  | .buildNeg link addr func exc => operationCommand 0x0A (encodeLink link ++ [addr, func, exc])
  | .dispatch t raw => operationCommand 0x0B (transportBit t :: raw)
  | .setEsa addr => operationCommand 0x0C [addr]

/-! The words of `opcode_table.json`. -/

/-- The zero octets that stand for the operands of an operation the table gives no bits for: as few
as spell operands that are all zero. -/
def zeroOperands (opsel : Nat) : List Byte :=
  match opsel with
  | 3 => rep 0 12
  | 4 | 5 => rep 0 2
  | 6 | 7 => rep 0 4
  | 9 => rep 0 5
  | 10 => rep 0 6
  | 11 | 12 => rep 0 1
  | _ => []

/-- The command of a table row's word w of `nbits` bits. The table numbers a frame as one number whose
most significant octet stands at offset 0 (R115). A word of the table does not say its row's class
(R115 keeps that in a field of its own), so the width decides: see log entry 7, also for the words of
eight bits or fewer, which are read as OPSEL. -/
def tableCommand (nbits w : Nat) : Command :=
  if nbits ≤ 8 then ⟨.opSel4, BitVec.ofNat 8 w :: zeroOperands w⟩
  else if nbits ≤ 16 then ⟨.tag16, beBytes 2 w ++ [0]⟩
  else if nbits ≤ 24 then ⟨.serialPos, beBytes 3 w ++ [0, 0]⟩
  else if nbits ≤ 40 then
    ⟨if (byteAt (beBytes 5 w) 1).getLsbD 7 then .serialNeg else .serialPos, beBytes 5 w⟩
  else if nbits ≤ 64 then ⟨.serialReq, beBytes 8 w⟩
  else if nbits ≤ 72 then
    ⟨if be16 (beBytes 9 w) 4 = 3 ∧ (byteAt (beBytes 9 w) 7).getLsbD 7 = true then .streamNeg
      else .streamPos, beBytes 9 w⟩
  else if nbits ≤ 96 then ⟨.streamReq, beBytes 12 w⟩
  else ⟨.streamReq, beBytes ((nbits + 7) / 8) w⟩

/-- The instruction the decoder reads from a table row's word. -/
def decodeTableWord (nbits w : Nat) : Option Instr :=
  (decode (tableCommand nbits w)).toOption

end Sys2Proof
end

