-- ==== Sys2Proof/Machine/Codec.lean ====
section
/-! DEFINITION. The typed register codec as functions on tags, values and byte sequences
(`40_codec.md`). A function answers `none` where the spec gives no result for the operands: a fixed-width
DECODE of another length (R144), an ENCODE of a value of another kind or out of range (R152, R150). -/

namespace Sys2Proof.Machine

open Sys2Proof

/-- The codec width in bytes (R141, R142). -/
def tagWidth : Tag → Nat
  | .bool | .int8 | .uint8 => 1
  | .int16 | .uint16 => 2
  | .int32 | .uint32 | .real32 => 4
  | .int64 | .uint64 | .real64 => 8
  | .string n => (n + 1) / 2 * 2

/-- The register count of a tag: half its width, rounded up (R143). -/
def regCount (t : Tag) : Nat := (tagWidth t + 1) / 2

/-- `REGCOUNT(tag) = ceil(WIDTHOF(tag) / 2)` of a tag word; it fails when WIDTHOF fails, and as
WIDTHOF does (R143, R141). A helper of the host, no operation. -/
def regCountOfWord (tag : Word) : Except LocalError Nat :=
  match tagOfWord tag with
  | none => .error (.invalidDataType tag)
  | some t => .ok (regCount t)

/-- DECODE of an unsigned integer of w bytes (R146). -/
def decodeUnsigned (b : List Byte) : TypedValue := .int (beNat b)

/-- DECODE of a signed integer of w bytes, two's complement (R147). -/
def decodeSigned (w : Nat) (b : List Byte) : TypedValue := .int (sext (8 * w) (beNat b))

/-- DECODE of STRING(n): cut or filled to n characters at the end `STR_PAD` names (R151). -/
def decodeString (c : Config) (n : Nat) (b : List Byte) : List Byte :=
  match c.strPad with
  | .leading => if n ≤ b.length then lastBytes b n else rep c.fill (n - b.length) ++ b
  | .trailing => if n ≤ b.length then firstBytes b n else b ++ rep c.fill (n - b.length)

/-- DECODE of a buffer the tag takes (R145 to R151). -/
def decodeValue (c : Config) (t : Tag) (b : List Byte) : TypedValue :=
  match t with
  | .bool => .bool (byteAt b 0 != 0)
  | .int8 => decodeSigned 1 b
  | .int16 => decodeSigned 2 b
  | .int32 => decodeSigned 4 b
  | .int64 => decodeSigned 8 b
  | .uint8 | .uint16 | .uint32 | .uint64 => decodeUnsigned b
  | .real32 => .real32 (BitVec.ofNat 32 (beNat b))
  | .real64 => .real64 (BitVec.ofNat 64 (beNat b))
  | .string n => .string (decodeString c n b)

/-- Whether DECODE takes a buffer of this length: strings every length, the fixed-width tags their
own width only (R144). -/
def decodeTakes (t : Tag) (length : Nat) : Bool :=
  match t with
  | .string _ => true
  | t => length == tagWidth t

/-- ENCODE of an unsigned integer of w bytes (R152). -/
def encodeUnsigned (w : Nat) (v : Int) : Option (List Byte) :=
  if 0 ≤ v ∧ v < 2 ^ (8 * w) then some (beBytes w v.toNat) else none

/-- ENCODE of a signed integer of w bytes: `encN(v mod 2^(8W), W)` (R152). -/
def encodeSigned (w : Nat) (v : Int) : Option (List Byte) :=
  if -(2 ^ (8 * w - 1)) ≤ v ∧ v < 2 ^ (8 * w - 1) then some (beBytes w (v % 2 ^ (8 * w)).toNat) else none

/-- ENCODE of STRING(n): exactly n characters, a filler when n is odd (R150). -/
def encodeString (c : Config) (n : Nat) (chars : List Byte) : Option (List Byte) :=
  if chars.length = n then
    if n % 2 = 0 then some chars
    else match c.strPad with
      | .leading => some (c.fill :: chars)
      | .trailing => some (chars ++ [c.fill])
  else none

/-- ENCODE (R152, R149, R150). -/
def encodeValue (c : Config) (t : Tag) (v : TypedValue) : Option (List Byte) :=
  match t, v with
  | .bool, .bool v => some [if v then 0x01 else 0x00]
  | .uint8, .int v => encodeUnsigned 1 v
  | .uint16, .int v => encodeUnsigned 2 v
  | .uint32, .int v => encodeUnsigned 4 v
  | .uint64, .int v => encodeUnsigned 8 v
  | .int8, .int v => encodeSigned 1 v
  | .int16, .int v => encodeSigned 2 v
  | .int32, .int v => encodeSigned 4 v
  | .int64, .int v => encodeSigned 8 v
  | .real32, .real32 p => some (beBytes 4 p.toNat)
  | .real64, .real64 p => some (beBytes 8 p.toNat)
  | .string n, .string chars => encodeString c n chars
  | _, _ => none

/-- `IMAGE(t, v)`: the register image of a value, filled up in front to whole registers (R154). A
helper of the host that prepares LOAD's entries. -/
def image (c : Config) (t : Tag) (v : TypedValue) : Option (List Byte) :=
  (encodeValue c t v).map fun b => rep c.fill (2 * regCount t - tagWidth t) ++ b

/-- `UNIMAGE(t, p)`: the value in a payload p of 2 x REGCOUNT(t) bytes (R155). -/
def unimage (c : Config) (t : Tag) (p : List Byte) : TypedValue :=
  decodeValue c t (lastBytes p (tagWidth t))

end Sys2Proof.Machine
end

