-- ==== Sys2Proof/Machine/Params.lean ====
section
/-! DEFINITION. The default values of the parameters (`00_scope.md` R11) and the default key list of the
register table (`20_memory.md` R70). -/

namespace Sys2Proof.Machine

open Sys2Proof

/-- The default `VIOL_PRIORITY` (R11, `46_dispatcher.md` R274). -/
def defaultPriority : ViolPriority :=
  { first := .addressMismatch, second := .checksumMismatch,
    third := .unsupportedFunction, fourth := .lengthMismatch }

/-- The numeric rows of the default `TABLE_KEYS` (R70). -/
def defaultNumericKeys : List TableKey :=
  [⟨0, 1, .int8⟩, ⟨1, 1, .uint8⟩, ⟨2, 1, .int16⟩, ⟨3, 1, .uint16⟩, ⟨4, 2, .int24⟩, ⟨6, 2, .uint24⟩,
   ⟨8, 2, .int32⟩, ⟨10, 2, .uint32⟩, ⟨12, 3, .int48⟩, ⟨15, 3, .uint48⟩, ⟨18, 4, .int64⟩,
   ⟨22, 4, .uint64⟩, ⟨26, 2, .real32⟩, ⟨28, 4, .real64⟩]

/-- The string rows of the default `TABLE_KEYS` (R70). -/
def defaultStringKeys : List TableKey :=
  [⟨32, 1, .string 1⟩, ⟨33, 1, .string 2⟩, ⟨34, 2, .string 4⟩, ⟨36, 3, .string 6⟩,
   ⟨39, 4, .string 8⟩, ⟨43, 5, .string 10⟩, ⟨48, 6, .string 12⟩]

/-- The default `TABLE_KEYS`: the 21 rows of R70. -/
def defaultTableKeys : List TableKey :=
  defaultNumericKeys ++ defaultStringKeys

/-- The defaults of R11. `RX_MAX` is unbounded; `TABLE_VALUES` is OPEN and no value is chosen
(log entry 3). -/
def defaultConfig : Config :=
  { excFunc := 0x01, excLen := 0x03, excCrc := 0x08, excAddr := 0x0B,
    violPriority := defaultPriority, fill := 0x00, strPad := .leading, rxMax := none,
    tableKeys := defaultTableKeys, tableValues := none }

/-- The width in bytes of a value of a row's type: the column "value byte width" of R70, with 3 for
the 24-bit and 6 for the 48-bit types. -/
def tableTypeWidth : TableType → Nat
  | .int8 | .uint8 => 1
  | .int16 | .uint16 => 2
  | .int24 | .uint24 => 3
  | .int32 | .uint32 | .real32 => 4
  | .int48 | .uint48 => 6
  | .int64 | .uint64 | .real64 => 8
  | .string n => (n + 1) / 2 * 2

/-- Whether `RX_MAX` is what R11 asks: unbounded, or at least 12. -/
def rxMaxWf (c : Config) : Bool :=
  match c.rxMax with
  | none => true
  | some m => decide (12 ≤ m)

/-- Whether `VIOL_PRIORITY` is what R11 asks: an ordering of the four kinds, so it names each of them. -/
def priorityWf (c : Config) : Bool :=
  decide [c.violPriority.first, c.violPriority.second, c.violPriority.third, c.violPriority.fourth].Nodup

/-- Whether `TABLE_VALUES` is what R11 asks, a map from key to 2 x count bytes: no key of `TABLE_KEYS`
stands twice, and, unless the values are left OPEN, each key has one payload of 2 x count bytes. -/
def tableValuesWf (c : Config) : Bool :=
  decide (c.tableKeys.map fun k => (k.start, k.count)).Nodup &&
  match c.tableValues with
  | none => true
  | some values => decide (values.map List.length = c.tableKeys.map fun k => 2 * k.count.toNat)

/-- What R11 asks of a configuration. -/
def configWf (c : Config) : Bool := rxMaxWf c && priorityWf c && tableValuesWf c

/-- A request buffer longer than `RX_MAX` (`10_state.md` R41). -/
def tooLong (c : Config) (length : Nat) : Bool :=
  match c.rxMax with
  | none => false
  | some m => decide (m < length)

/-- The entry that gives a key of `TABLE_KEYS` its payload. -/
def keyEntry (k : TableKey) (payload : List Byte) : Entry := ⟨k.start, k.count, payload⟩

/-- The definition list the host hands to LOAD at start-up, from `TABLE_KEYS` and `TABLE_VALUES`
(`20_memory.md` R72, `70_reset_and_hazards.md` R332); none while the values are left OPEN. -/
def startupEntries (c : Config) : List Entry :=
  match c.tableValues with
  | none => []
  | some values => List.zipWith keyEntry c.tableKeys values

end Sys2Proof.Machine
end

