-- ==== Sys2Proof/Machine/Flags.lean ====
section
/-! DEFINITION. The result flags: every check of the validator (`43_validator.md` R210 to R217), the
bit vector of `reasons` (`10_state.md` R38), the choice of an exception code from them
(`46_dispatcher.md` R274), and the names and numbers of the error taxonomy (`60_exceptions.md` R291)
and of the exception codes (`30_encoding.md` R99). -/

namespace Sys2Proof.Machine

open Sys2Proof

/-- The supported function codes, 0x03 and 0x04 (`30_encoding.md` R98). -/
def supportedFunction (func : Byte) : Bool := func == 0x03 || func == 0x04

/-- The length check: LEN = 6 for Streaming (R212), a buffer of 8 octets for Serial (R215). -/
def lengthViolation : Request → Bool
  | .streaming _ declaredLength _ => declaredLength != 6
  | .serial _ f => f.rawBytes.length != 8

/-- The CRC16 of the first six octets of `rawBytes` (R216); of fewer octets than six, which no parser
hands on, a free value (log entry 5). -/
def requestCrc (raw : List Byte) : Word :=
  if 6 ≤ raw.length then crc16 (slice raw 0 5) else Config.shortRawCrc raw

/-- The checksum check, Serial only (R216). -/
def checksumViolation : Request → Bool
  | .streaming _ _ _ => false
  | .serial received f => requestCrc f.rawBytes != received

/-- All violations of a Request; no check is skipped (R217). -/
def violations (r : Request) (expected : Byte) : Reasons :=
  { lengthMismatch := lengthViolation r
    checksumMismatch := checksumViolation r
    addressMismatch := (requestFields r).slaveAddress != expected
    unsupportedFunction := !supportedFunction (requestFields r).functionCode }

/-- Whether the set is empty. -/
def reasonsEmpty (r : Reasons) : Bool :=
  !(r.lengthMismatch || r.checksumMismatch || r.addressMismatch || r.unsupportedFunction)

/-- VALIDATE (R210). -/
def validate (r : Request) (expected : Byte) : ValidationResult :=
  { ok := reasonsEmpty (violations r expected), reasons := violations r expected }

/-- Membership of a kind in `reasons`. -/
def hasViolation (r : Reasons) : Violation → Bool
  | .lengthMismatch => r.lengthMismatch
  | .checksumMismatch => r.checksumMismatch
  | .addressMismatch => r.addressMismatch
  | .unsupportedFunction => r.unsupportedFunction

/-- `reasons` as a bit vector: bit 0 LengthMismatch, bit 1 ChecksumMismatch, bit 2 AddressMismatch,
bit 3 UnsupportedFunction (`10_state.md` R38). -/
def reasonBits (r : Reasons) : BitVec 4 :=
  BitVec.ofBool r.unsupportedFunction ++ BitVec.ofBool r.addressMismatch ++
    BitVec.ofBool r.checksumMismatch ++ BitVec.ofBool r.lengthMismatch

/-- The exception code of a violation kind (R274). -/
def violationCode (c : Config) : Violation → Byte
  | .lengthMismatch => c.excLen
  | .checksumMismatch => c.excCrc
  | .addressMismatch => c.excAddr
  | .unsupportedFunction => c.excFunc

/-- EXCSEL: the code of the first kind of `VIOL_PRIORITY` that is reported (R274); the last kind is
not tested, for it is then the only one left. -/
def excSel (c : Config) (r : Reasons) : Byte :=
  if hasViolation r c.violPriority.first then violationCode c c.violPriority.first
  else if hasViolation r c.violPriority.second then violationCode c c.violPriority.second
  else if hasViolation r c.violPriority.third then violationCode c c.violPriority.third
  else violationCode c c.violPriority.fourth

/-- The exception code of a lookup miss, Illegal Data Address; fixed, no parameter (R275). -/
def excMiss : Byte := 0x02

/-- The numbers of the error names (`60_exceptions.md` R291). -/
def errorCode : ErrorName → Nat
  | .frameTooShort => 1
  | .protocolIdMismatch => 2
  | .invalidDataType => 3
  | .checksumMismatch => 4
  | .addressMismatch => 5
  | .unsupportedFunction => 6
  | .registerNotDefined => 7
  | .lengthMismatch => 8

/-- The name of a local error (R291). -/
def errorName : LocalError → ErrorName
  | .frameTooShort _ => .frameTooShort
  | .protocolIdMismatch _ => .protocolIdMismatch
  | .invalidDataType _ => .invalidDataType

/-- The name of a violation kind in the taxonomy (R291). -/
def violationName : Violation → ErrorName
  | .lengthMismatch => .lengthMismatch
  | .checksumMismatch => .checksumMismatch
  | .addressMismatch => .addressMismatch
  | .unsupportedFunction => .unsupportedFunction

/-- The standard names of the exception codes (`30_encoding.md` R99); 0x00, 0x09 and 0x0C to 0xFF
have none. -/
def exceptionName (code : Byte) : Option String :=
  match code.toNat with
  | 1 => some "Illegal Function"
  | 2 => some "Illegal Data Address"
  | 3 => some "Illegal Data Value"
  | 4 => some "Slave Device Failure"
  | 5 => some "Acknowledge"
  | 6 => some "Slave Device Busy"
  | 7 => some "Negative Acknowledge"
  | 8 => some "Memory Parity Error"
  | 10 => some "Gateway Path Unavailable"
  | 11 => some "Gateway Target Failed to Respond"
  | _ => none

end Sys2Proof.Machine
end

