-- ==== Sys2Proof/Machine/State.lean ====
section
/-! DEFINITION. The state of the engine: the persistent triple (`10_state.md` R30), the configuration
fixed for the life of a machine (R44), and the host's side of the interface, the commands it has
handed over and the results it has been given (`60_exceptions.md` R315). -/

namespace Sys2Proof.Machine

open Sys2Proof

/-- The register table, the engine's only memory (`20_memory.md` R60): its objects in the canonical
form `Memory.wf`, keys strictly rising. Its unit of access is one whole object, reached by its exact key
(R64), so it is listed by key and not byte by byte. A key that is not listed reads as "not defined". -/
abbrev Memory := List Entry

/-- What an operation delivers (`30_encoding.md` R104, column "result"). -/
inductive Result where
  /-- The 16-bit value of CRC16. -/
  | word (v : Word)
  /-- The Request of PARSE_S and PARSE_R. -/
  | request (r : Request)
  /-- The ValidationResult of VALIDATE. -/
  | validation (v : ValidationResult)
  /-- The byte width of WIDTHOF. -/
  | width (n : Nat)
  /-- The TypedValue of DECODE. -/
  | value (v : TypedValue)
  /-- The bytes of ENCODE, BUILD_POS, BUILD_NEG and DISPATCH; for DISPATCH possibly empty. -/
  | bytes (b : List Byte)
  /-- The `some(payload)` or `none` of LOOKUP. -/
  | payload (p : Option (List Byte))
  /-- The "none" of LOAD and SETESA: done, nothing to give back. -/
  | done
  /-- A local error, raised (`60_exceptions.md` R298). -/
  | error (e : LocalError)
  deriving DecidableEq, Repr

/-- The state. -/
structure State where
  /-- `ESA`, the expected slave address; absent until the first SETESA (R31). -/
  esa     : Option Byte
  /-- `LOADED`: set by the one successful LOAD, never cleared (R32). -/
  loaded  : Bool
  /-- `TABLE`, the register table (R33). -/
  table   : Memory
  /-- The parameters of `00_scope.md` R11; no operation writes them (R44). -/
  config  : Config
  /-- The commands the host has handed over and the engine has not yet run, the next one first: the
  engine fetches nothing itself, the host decides which operation runs next (R37). -/
  inbox   : List Command
  /-- The results delivered to the host so far, oldest first (`70_reset_and_hazards.md` R343). -/
  results : List Result
  deriving DecidableEq, Repr

/-- The two phases of the lifecycle (`60_exceptions.md` R309). -/
inductive Phase where
  | init
  | serve
  deriving DecidableEq, Repr

/-- What stops the machine with a fault. The spec gives the engine no fault: its errors are results
(`60_exceptions.md` R298, R303). -/
inductive Fault where
  /-- Raised by `step` alone: the command octets spell no instruction (log entry 6). The octets of
  operands are the model's own spelling, so no rule says what happens. Safe: the machine stops. -/
  | malformedCommand
  deriving DecidableEq, Repr

/-- The refusals: the spec's complete list (`60_exceptions.md` R299), "operand or state combinations to
which neither the source nor this spec gives a result". Each is safe: the machine stops where the
software would do something the spec does not state. -/
inductive Refusal where
  /-- For exec's arms that have no meaning yet; no arm uses it now. Safe. -/
  | notModelled (mnemonic : String)
  /-- LOOKUP and DISPATCH with LOADED = 0 (R233, R279). Safe. -/
  | notLoaded
  /-- DISPATCH before any SETESA (R279). Safe. -/
  | esaUnset
  /-- LOAD with LOADED = 1 (R236). Safe. -/
  | alreadyLoaded
  /-- LOAD of an entry with a bad count or payload length (R235). Safe. -/
  | badEntry
  /-- LOAD of two entries with one key (R235). Safe. -/
  | duplicateKey
  /-- DISPATCH and the parsers, on a buffer longer than `RX_MAX` (R279, R299). Safe. -/
  | bufferTooLong
  /-- BUILD_POS of a payload longer than 255 bytes (R258). Safe. -/
  | payloadTooLong
  /-- DECODE of a fixed-width tag with a buffer of another length (R144). Safe. -/
  | decodeLength
  /-- ENCODE of a value outside the tag's kind or range (R152, R150). Safe. -/
  | encodeRange
  /-- OPSEL 0xD to 0xF, refused by `step` (R104). Safe. -/
  | reservedOp
  deriving DecidableEq, Repr

/-- The machine right after reset (R45, `70_reset_and_hazards.md` R330): LOADED = 0, TABLE empty, ESA
absent, nothing else; the parameters at their defaults (log entry 3), no command waiting and no result
delivered. -/
def State.reset : State :=
  { esa := none, loaded := false, table := [], config := defaultConfig, inbox := [], results := [] }

end Sys2Proof.Machine
end

