-- ==== Sys2Proof/Machine/Ops.lean ====
section
/-! DEFINITION. The named operations over the state: delivering a result, raising a local error,
answering with an exception code, reading and loading the register table, and the shared bodies of the
codec, parser and dispatcher operations. -/

namespace Sys2Proof.Machine

open Sys2Proof

/-- An operation's outcome. -/
abbrev Answer := Host.Outcome State Fault Refusal

/-- Hand a result to the host. -/
def deliver (s : State) (r : Result) : State := { s with results := s.results ++ [r] }

/-- An operation that ends by delivering a result and changes nothing else. -/
def answer (r : Result) (s : State) : Answer := .next (deliver s r)

/-- `raise E(info)` (`60_exceptions.md` R298, R303): the operation ends with the error as its result,
nothing is saved and nothing persistent changes. There is no return from it: the engine accepts the
next operation (R304). -/
def raise (e : LocalError) (s : State) : Answer := answer (.error e) s

/-- TAKING A WIRE EXCEPTION, the one way a condition is reported on the wire (`46_dispatcher.md` R276):
a negative response with the request's own address, its function with bit 7 set, and the exception
code. Nothing persistent changes (`60_exceptions.md` R303). -/
def answerNegative (link : Link) (addr func exc : Byte) (s : State) : Answer :=
  answer (.bytes (buildNegative link addr func exc)) s

/-- A positive response (`46_dispatcher.md` R277), or the refusal of a payload that has no BYTECOUNT
(`45_response_builder.md` R258). -/
def answerPositive (link : Link) (addr func : Byte) (p : List Byte) (s : State) : Answer :=
  match buildPositive link addr func p with
  | some b => answer (.bytes b) s
  | none => .refused .payloadTooLong

/-- The lifecycle phase (`60_exceptions.md` R309). -/
def phase (s : State) : Phase := if s.loaded then .serve else .init

/-! The register table. -/

/-- The order of keys: by start, then by count. -/
def entryKey (e : Entry) : Nat := e.start.toNat * 65536 + e.count.toNat

/-- `TableRead(start, count)`: the payload at this exact key, or `none` (`20_memory.md` R64). -/
def tableRead (m : Memory) (start count : Word) : Option (List Byte) :=
  (m.find? fun e => e.start == start && e.count == count).map (·.payload)

/-- Place an entry where its key belongs. -/
def tableInsert (e : Entry) : Memory → Memory
  | [] => [e]
  | x :: m =>
    if entryKey e < entryKey x then e :: x :: m
    else if entryKey e = entryKey x then e :: m
    else x :: tableInsert e m

/-- `{ (s, c) -> p for each (s, c, p) in entries }` (`44_register_store.md` R234). -/
def tableOf (es : List Entry) : Memory := es.foldr tableInsert []

/-- The canonical form of the table, which is also its well-formedness (`10_state.md` R33): keys strictly
rising, every count from 1 to 127, every payload 2 x count bytes. -/
def Memory.wf (m : Memory) : Bool :=
  m.all entryOk && decide (m.Pairwise fun a b => entryKey a < entryKey b)

/-- Whether an entry has the key of e. -/
def sameKey (e x : Entry) : Bool := x.start == e.start && x.count == e.count

/-- LOAD's loop over its entries, in their order: what refuses the list, if anything does
(`44_register_store.md` R234). `all` is the whole list. -/
def loadRefusal (all : List Entry) : List Entry → Option Refusal
  | [] => none
  | e :: es =>
    if entryOk e = false then some .badEntry
    else if 1 < all.countP (sameKey e) then some .duplicateKey
    else loadRefusal all es

/-- LOAD (R234): all of the table, or nothing (`20_memory.md` R67). -/
def tableLoad (es : List Entry) (s : State) : Answer :=
  if s.loaded then .refused .alreadyLoaded
  else match loadRefusal es es with
    | some r => .refused r
    | none => answer .done { s with table := tableOf es, loaded := true }

/-! Shared bodies. -/

/-- The codec (`40_codec.md` R141, R144, R152): the tag is tested before anything else
(`60_exceptions.md` R306). -/
def runCodec (tag : Word) (use : TagUse) (s : State) : Answer :=
  match tagOfWord tag with
  | none => raise (.invalidDataType tag) s
  | some t =>
    match use with
    | .widthOf => answer (.width (tagWidth t)) s
    | .decode b =>
      if decodeTakes t b.length then answer (.value (decodeValue s.config t b)) s
      else .refused .decodeLength
    | .encode v =>
      match encodeValue s.config t v with
      | some b => answer (.bytes b) s
      | none => .refused .encodeRange

/-- A parser (`42_parser.md` R190 to R196). -/
def runParser (t : Transport) (b : List Byte) (s : State) : Answer :=
  if tooLong s.config b.length then .refused .bufferTooLong
  else match parse t b with
    | .ok r => answer (.request r) s
    | .error e => raise e s

/-- A valid request (`46_dispatcher.md` R273, R275, R277): look up, then answer. -/
def serveValid (r : Request) (s : State) : Answer :=
  match tableRead s.table (requestFields r).startRegister (requestFields r).registerCount with
  | some p => answerPositive (requestLink r) (requestFields r).slaveAddress (requestFields r).functionCode p s
  | none => answerNegative (requestLink r) (requestFields r).slaveAddress (requestFields r).functionCode excMiss s

/-- A parsed request (R270, R274): validate, then serve it or name the violation. -/
def serveRequest (r : Request) (expected : Byte) (s : State) : Answer :=
  if (validate r expected).ok then serveValid r s
  else answerNegative (requestLink r) (requestFields r).slaveAddress (requestFields r).functionCode
    (excSel s.config (validate r expected).reasons) s

/-- DISPATCH (R270): the preconditions of R279, the parser, and nothing more on a parse error (R272).
DESIGN CHOICE (log entry 19): a buffer beyond `RX_MAX` that comes before LOAD or before SETESA is
refused as NotLoaded or EsaUnset, not as BufferTooLong; R279 and R306 give BufferTooLong no place
among the three. -/
def serve (t : Transport) (raw : List Byte) (s : State) : Answer :=
  if s.loaded = false then .refused .notLoaded
  else match s.esa with
    | none => .refused .esaUnset
    | some expected =>
      if tooLong s.config raw.length then .refused .bufferTooLong
      else match parse t raw with
        | .error _ => answer (.bytes []) s
        | .ok r => serveRequest r expected s

end Sys2Proof.Machine
end

