-- ==== Sys2Proof/Machine/Builder.lean ====
section
/-! DEFINITION. The operations BUILD_POS and BUILD_NEG, and the four response rows: the frame of each
format as the builder emits it (`45_response_builder.md`, `30_encoding.md` R93 to R96; log entry 7). -/

namespace Sys2Proof.Machine

open Sys2Proof

/-- BUILD_POS (R252, R253, R258). -/
def execBuildPos (link : Link) (addr func : Byte) (p : List Byte) (s : State) : Answer :=
  answerPositive link addr func p s

/-- BUILD_NEG (R254, R257). -/
def execBuildNeg (link : Link) (addr func exc : Byte) (s : State) : Answer :=
  answerNegative link addr func exc s

/-- STREAM_POS (R252): LEN and BYTECOUNT are computed, never taken from the operand. -/
def execStreamPos (tid : Word) (addr func : Byte) (data : List Byte) (s : State) : Answer :=
  answerPositive (.streaming tid) addr func data s

/-- STREAM_NEG (R254). -/
def execStreamNeg (tid : Word) (addr : Byte) (func : BitVec 7) (errCode : Byte) (s : State) : Answer :=
  answerNegative (.streaming tid) addr (func.setWidth 8) errCode s

/-- SERIAL_POS (R253): BYTECOUNT and CRC16 are computed, never taken from the operand. -/
def execSerialPos (addr func : Byte) (data : List Byte) (s : State) : Answer :=
  answerPositive .serial addr func data s

/-- SERIAL_NEG (R257): CRC16 is computed, never taken from the operand. -/
def execSerialNeg (addr : Byte) (func : BitVec 7) (errCode : Byte) (s : State) : Answer :=
  answerNegative .serial addr (func.setWidth 8) errCode s

end Sys2Proof.Machine
end

