-- ==== Sys2Proof/Machine/Dispatcher.lean ====
section
/-! DEFINITION. The operation DISPATCH, and the four request rows: a received frame of an accepted form,
which DISPATCH answers (`46_dispatcher.md`, `30_encoding.md` R91, R92, R102). -/

namespace Sys2Proof.Machine

open Sys2Proof

/-- DISPATCH (R270). -/
def execDispatch (t : Transport) (raw : List Byte) (s : State) : Answer := serve t raw s

/-- STREAM_READ_03: a Streaming frame with FUNC = 0x03; octets from offset 12 on are ignored (R102). -/
def execStreamRead03 (tid : Word) (addr : Byte) (start count : Word) (extra : List Byte) (s : State) :
    Answer :=
  serve .streaming (streamReqBytes tid addr 0x03 start count extra) s

/-- STREAM_READ_04: the same with FUNC = 0x04 (R98). -/
def execStreamRead04 (tid : Word) (addr : Byte) (start count : Word) (extra : List Byte) (s : State) :
    Answer :=
  serve .streaming (streamReqBytes tid addr 0x04 start count extra) s

/-- SERIAL_READ_03: a Serial frame of 8 octets with FUNC = 0x03. -/
def execSerialRead03 (addr : Byte) (start count crc : Word) (s : State) : Answer :=
  serve .serial (serialReqBytes addr 0x03 start count crc) s

/-- SERIAL_READ_04: the same with FUNC = 0x04 (R98). -/
def execSerialRead04 (addr : Byte) (start count crc : Word) (s : State) : Answer :=
  serve .serial (serialReqBytes addr 0x04 start count crc) s

end Sys2Proof.Machine
end

