-- ==== Sys2Proof/Machine/ExceptionCodes.lean ====
section
/-! DEFINITION. The ten exception code rows: the code as the ERRCODE octet of the negative response that
carries it (`30_encoding.md` R99, `45_response_builder.md` R255; log entry 7). -/

namespace Sys2Proof.Machine

open Sys2Proof

/-- EXC_01, Illegal Function: the default of `EXC_FUNC` (R274). -/
def execExc01 (link : Link) (addr func : Byte) (s : State) : Answer :=
  answerNegative link addr func 0x01 s

/-- EXC_02, Illegal Data Address: what DISPATCH sends on a lookup miss (R275). -/
def execExc02 (link : Link) (addr func : Byte) (s : State) : Answer :=
  answerNegative link addr func 0x02 s

/-- EXC_03, Illegal Data Value: the default of `EXC_LEN` (R274). -/
def execExc03 (link : Link) (addr func : Byte) (s : State) : Answer :=
  answerNegative link addr func 0x03 s

/-- EXC_04, Slave Device Failure: sent when the host passes it (R255). -/
def execExc04 (link : Link) (addr func : Byte) (s : State) : Answer :=
  answerNegative link addr func 0x04 s

/-- EXC_05, Acknowledge: sent when the host passes it (R255). -/
def execExc05 (link : Link) (addr func : Byte) (s : State) : Answer :=
  answerNegative link addr func 0x05 s

/-- EXC_06, Slave Device Busy: sent when the host passes it (R255). -/
def execExc06 (link : Link) (addr func : Byte) (s : State) : Answer :=
  answerNegative link addr func 0x06 s

/-- EXC_07, Negative Acknowledge: sent when the host passes it (R255). -/
def execExc07 (link : Link) (addr func : Byte) (s : State) : Answer :=
  answerNegative link addr func 0x07 s

/-- EXC_08, Memory Parity Error: the default of `EXC_CRC` (R274). -/
def execExc08 (link : Link) (addr func : Byte) (s : State) : Answer :=
  answerNegative link addr func 0x08 s

/-- EXC_0A, Gateway Path Unavailable: sent when the host passes it (R255). -/
def execExc0A (link : Link) (addr func : Byte) (s : State) : Answer :=
  answerNegative link addr func 0x0A s

/-- EXC_0B, Gateway Target Failed to Respond: the default of `EXC_ADDR` (R274). -/
def execExc0B (link : Link) (addr func : Byte) (s : State) : Answer :=
  answerNegative link addr func 0x0B s

end Sys2Proof.Machine
end

