-- ==== Sys2Proof/Machine/Integrity.lean ====
section
/-! DEFINITION. The operation CRC16 (`41_crc16.md`). -/

namespace Sys2Proof.Machine

open Sys2Proof

/-- CRC16 (R170): no error, no state read or written. -/
def execCrc16 (b : List Byte) (s : State) : Answer := answer (.word (crc16 b)) s

end Sys2Proof.Machine
end

