-- ==== Sys2Proof/Machine/Parser.lean ====
section
/-! DEFINITION. The operations PARSE_S and PARSE_R (`42_parser.md`). -/

namespace Sys2Proof.Machine

open Sys2Proof

/-- PARSE_S (R191). -/
def execParseS (b : List Byte) (s : State) : Answer := runParser .streaming b s

/-- PARSE_R (R195). -/
def execParseR (b : List Byte) (s : State) : Answer := runParser .serial b s

end Sys2Proof.Machine
end

