-- ==== Sys2Proof/Machine/Store.lean ====
section
/-! DEFINITION. The register store and configuration operations LOOKUP, LOAD and SETESA
(`44_register_store.md`). -/

namespace Sys2Proof.Machine

open Sys2Proof

/-- LOOKUP (R231, R233): `none` is a result, not an error. -/
def execLookup (start count : Word) (s : State) : Answer :=
  if s.loaded = false then .refused .notLoaded
  else answer (.payload (tableRead s.table start count)) s

/-- LOAD (R234 to R236). -/
def execLoad (es : List Entry) (s : State) : Answer := tableLoad es s

/-- SETESA (R237): every address is accepted, at any time. -/
def execSetEsa (addr : Byte) (s : State) : Answer := answer .done { s with esa := some addr }

end Sys2Proof.Machine
end

