-- ==== Sys2Proof/Machine/Typed.lean ====
section
/-! DEFINITION. The operations of the codec, WIDTHOF, DECODE and ENCODE, and the twelve tag rows: a tag
with the codec operation it is used in (`40_codec.md`, `30_encoding.md` R103; log entry 7). -/

namespace Sys2Proof.Machine

open Sys2Proof

/-- WIDTHOF (R141). -/
def execWidthOf (tag : Word) (s : State) : Answer := runCodec tag .widthOf s

/-- DECODE (R144). -/
def execDecode (tag : Word) (b : List Byte) (s : State) : Answer := runCodec tag (.decode b) s

/-- ENCODE (R152). -/
def execEncode (tag : Word) (v : TypedValue) (s : State) : Answer := runCodec tag (.encode v) s

/-- BOOL, kind 0x0 (R145, R152). -/
def execTagBool (use : TagUse) (s : State) : Answer := runCodec (tagWord 0x0 0) use s

/-- INT8, kind 0x1 (R147, R152). -/
def execTagInt8 (use : TagUse) (s : State) : Answer := runCodec (tagWord 0x1 0) use s

/-- UINT8, kind 0x2 (R146, R152). -/
def execTagUint8 (use : TagUse) (s : State) : Answer := runCodec (tagWord 0x2 0) use s

/-- INT16, kind 0x3 (R147, R152). -/
def execTagInt16 (use : TagUse) (s : State) : Answer := runCodec (tagWord 0x3 0) use s

/-- UINT16, kind 0x4 (R146, R152). -/
def execTagUint16 (use : TagUse) (s : State) : Answer := runCodec (tagWord 0x4 0) use s

/-- INT32, kind 0x5 (R147, R152). -/
def execTagInt32 (use : TagUse) (s : State) : Answer := runCodec (tagWord 0x5 0) use s

/-- UINT32, kind 0x6 (R146, R152). -/
def execTagUint32 (use : TagUse) (s : State) : Answer := runCodec (tagWord 0x6 0) use s

/-- INT64, kind 0x7 (R147, R152). -/
def execTagInt64 (use : TagUse) (s : State) : Answer := runCodec (tagWord 0x7 0) use s

/-- UINT64, kind 0x8 (R146, R152). -/
def execTagUint64 (use : TagUse) (s : State) : Answer := runCodec (tagWord 0x8 0) use s

/-- REAL32, kind 0x9 (R149). -/
def execTagReal32 (use : TagUse) (s : State) : Answer := runCodec (tagWord 0x9 0) use s

/-- REAL64, kind 0xA (R149). -/
def execTagReal64 (use : TagUse) (s : State) : Answer := runCodec (tagWord 0xA 0) use s

/-- STRING(n), kind 0xB (R151, R150): n = 0 and n > 255 are InvalidDataType. -/
def execTagString (n : BitVec 12) (use : TagUse) (s : State) : Answer := runCodec (tagWord 0xB n) use s

end Sys2Proof.Machine
end

