-- ==== Sys2Proof/Machine/Validator.lean ====
section
/-! DEFINITION. The operation VALIDATE (`43_validator.md`). -/

namespace Sys2Proof.Machine

open Sys2Proof

/-- VALIDATE (R210): the expected address is an operand; the operation never raises. -/
def execValidate (r : Request) (expected : Byte) (s : State) : Answer :=
  answer (.validation (validate r expected)) s

end Sys2Proof.Machine
end

