-- ==== Sys2Proof/Machine/Dispatch.lean ====
section
/-! DEFINITION. One arm per constructor of `Instr`: the meaning of every row of the opcode table. -/

namespace Sys2Proof.Machine

open Sys2Proof

def exec (i : Instr) (s : State) : Host.Outcome State Fault Refusal :=
  match i with
  | .streamRead03 tid addr start count extra => Sys2Proof.Machine.execStreamRead03 tid addr start count extra s
  | .streamRead04 tid addr start count extra => Sys2Proof.Machine.execStreamRead04 tid addr start count extra s
  | .serialRead03 addr start count crc => Sys2Proof.Machine.execSerialRead03 addr start count crc s
  | .serialRead04 addr start count crc => Sys2Proof.Machine.execSerialRead04 addr start count crc s
  | .streamPos tid _ addr func _ data => Sys2Proof.Machine.execStreamPos tid addr func data s
  | .streamNeg tid addr func errCode => Sys2Proof.Machine.execStreamNeg tid addr func errCode s
  | .serialPos addr func _ data _ => Sys2Proof.Machine.execSerialPos addr func data s
  | .serialNeg addr func errCode _ => Sys2Proof.Machine.execSerialNeg addr func errCode s
  | .exc01 link addr func => Sys2Proof.Machine.execExc01 link addr func s
  | .exc02 link addr func => Sys2Proof.Machine.execExc02 link addr func s
  | .exc03 link addr func => Sys2Proof.Machine.execExc03 link addr func s
  | .exc04 link addr func => Sys2Proof.Machine.execExc04 link addr func s
  | .exc05 link addr func => Sys2Proof.Machine.execExc05 link addr func s
  | .exc06 link addr func => Sys2Proof.Machine.execExc06 link addr func s
  | .exc07 link addr func => Sys2Proof.Machine.execExc07 link addr func s
  | .exc08 link addr func => Sys2Proof.Machine.execExc08 link addr func s
  | .exc0A link addr func => Sys2Proof.Machine.execExc0A link addr func s
  | .exc0B link addr func => Sys2Proof.Machine.execExc0B link addr func s
  | .tagBool use => Sys2Proof.Machine.execTagBool use s
  | .tagInt8 use => Sys2Proof.Machine.execTagInt8 use s
  | .tagUint8 use => Sys2Proof.Machine.execTagUint8 use s
  | .tagInt16 use => Sys2Proof.Machine.execTagInt16 use s
  | .tagUint16 use => Sys2Proof.Machine.execTagUint16 use s
  | .tagInt32 use => Sys2Proof.Machine.execTagInt32 use s
  | .tagUint32 use => Sys2Proof.Machine.execTagUint32 use s
  | .tagInt64 use => Sys2Proof.Machine.execTagInt64 use s
  | .tagUint64 use => Sys2Proof.Machine.execTagUint64 use s
  | .tagReal32 use => Sys2Proof.Machine.execTagReal32 use s
  | .tagReal64 use => Sys2Proof.Machine.execTagReal64 use s
  | .tagString n use => Sys2Proof.Machine.execTagString n use s
  | .crc16 bytes => Sys2Proof.Machine.execCrc16 bytes s
  | .parseS bytes => Sys2Proof.Machine.execParseS bytes s
  | .parseR bytes => Sys2Proof.Machine.execParseR bytes s
  | .validate request expected => Sys2Proof.Machine.execValidate request expected s
  | .widthOf tag => Sys2Proof.Machine.execWidthOf tag s
  | .decode tag bytes => Sys2Proof.Machine.execDecode tag bytes s
  | .encode tag value => Sys2Proof.Machine.execEncode tag value s
  | .lookup start count => Sys2Proof.Machine.execLookup start count s
  | .load entries => Sys2Proof.Machine.execLoad entries s
  | .buildPos link addr func payload => Sys2Proof.Machine.execBuildPos link addr func payload s
  | .buildNeg link addr func exc => Sys2Proof.Machine.execBuildNeg link addr func exc s
  | .dispatch transport raw => Sys2Proof.Machine.execDispatch transport raw s
  | .setEsa addr => Sys2Proof.Machine.execSetEsa addr s

end Sys2Proof.Machine
end

