-- ==== Sys2Proof/Machine/Fetch.lean ====
section
/-! DEFINITION. Running one command: decode it, run it, or reject it by name. -/

namespace Sys2Proof.Machine

open Sys2Proof

/-- What a command that spells no instruction does: a reserved OPSEL is refused (`30_encoding.md` R104,
R110); octets that are no spelling at all fault (log entry 6). -/
def rejectCommand (e : DecodeError) : Host.Outcome State Fault Refusal :=
  match e with
  | .reservedOp _ => .refused .reservedOp
  | .emptyCommand | .selectorTooWide _ | .badOperands | .notOfFormat _ => .fault .malformedCommand

/-- Run one command. -/
def runCommand (c : Command) (s : State) : Host.Outcome State Fault Refusal :=
  match decode c with
  | .ok i => exec i s
  | .error e => rejectCommand e

end Sys2Proof.Machine
end

