-- ==== Sys2Proof/Machine/Step.lean ====
section
/-! DEFINITION. One step: the engine takes the next command the host has handed over and runs it to its
result (`10_state.md` R44). The engine never acts on its own (`00_scope.md` R22). -/

namespace Sys2Proof.Machine

open Sys2Proof

/-- One step. With no command waiting the engine idles (log entry 2). -/
def step (s : State) : Host.Outcome State Fault Refusal :=
  match s.inbox with
  | [] => .next s
  | c :: rest => runCommand c { s with inbox := rest }

/-- s with a table row's word as the command that step runs next (log entry 8). -/
def State.withFetchWord (s : State) (nbits w : Nat) : State :=
  { s with inbox := tableCommand nbits w :: s.inbox.tail }

end Sys2Proof.Machine
end

