-- ==== Sys2Proof/WellFormed.lean ====
section
/-! DEFINITION. Well-formed instructions: the operands lie where the spec gives the instruction a result,
and the computed fields of a response frame hold what the builders compute. The machine runs
ill-formed instructions too, and says what the spec says of them: a local error, or a refusal by name. -/

namespace Sys2Proof

open Sys2Proof.Machine

/-- A Request as a parser makes it: its fields are those of its own raw octets (`42_parser.md` R198). -/
def requestWf (r : Request) : Bool :=
  match r with
  | .streaming _ _ f => decide ((parseStreaming f.rawBytes).toOption = some r)
  | .serial _ f => decide ((parseSerial f.rawBytes).toOption = some r)

/-- A value of the tag's kind and in its range (`40_codec.md` R152, R150). -/
def valueFits (t : Tag) (v : TypedValue) : Bool :=
  match t, v with
  | .bool, .bool _ => true
  | .uint8, .int v => decide (0 ≤ v ∧ v < 2 ^ 8)
  | .uint16, .int v => decide (0 ≤ v ∧ v < 2 ^ 16)
  | .uint32, .int v => decide (0 ≤ v ∧ v < 2 ^ 32)
  | .uint64, .int v => decide (0 ≤ v ∧ v < 2 ^ 64)
  | .int8, .int v => decide (-(2 ^ 7) ≤ v ∧ v < 2 ^ 7)
  | .int16, .int v => decide (-(2 ^ 15) ≤ v ∧ v < 2 ^ 15)
  | .int32, .int v => decide (-(2 ^ 31) ≤ v ∧ v < 2 ^ 31)
  | .int64, .int v => decide (-(2 ^ 63) ≤ v ∧ v < 2 ^ 63)
  | .real32, .real32 _ => true
  | .real64, .real64 _ => true
  | .string n, .string chars => chars.length == n
  | _, _ => false

/-- The codec use of a tag word: on a word that spells no tag every use is answered by
InvalidDataType (R141); on a tag, DECODE needs a buffer and ENCODE a value it takes. -/
def tagUseWf (tag : Word) (use : TagUse) : Bool :=
  match tagOfWord tag, use with
  | none, _ => true
  | some _, .widthOf => true
  | some t, .decode b => decodeTakes t b.length
  | some t, .encode v => valueFits t v

/-- A list LOAD accepts: well-formed entries, no key twice (R235). -/
def entriesWf (es : List Entry) : Bool :=
  es.all entryOk && decide ((es.map fun e => (e.start, e.count)).Nodup)

/-- Well-formed instructions. -/
def wellFormed (i : Instr) : Bool :=
  match i with
  | .streamRead03 _ _ _ _ _ | .streamRead04 _ _ _ _ _ => true
  | .serialRead03 _ _ _ _ | .serialRead04 _ _ _ _ => true
  | .streamPos _ len _ _ byteCount data =>
      decide (data.length ≤ 255 ∧ byteCount.toNat = data.length ∧ len.toNat = 3 + data.length)
  | .streamNeg _ _ _ _ => true
  | .serialPos addr func byteCount data crc =>
      decide (data.length ≤ 255 ∧ byteCount.toNat = data.length ∧
        crc = crc16 ([addr, func, byteCount] ++ data))
  | .serialNeg addr func errCode crc =>
      decide (crc = crc16 [addr, negativeFunction (func.setWidth 8), errCode])
  | .exc01 _ _ _ | .exc02 _ _ _ | .exc03 _ _ _ | .exc04 _ _ _ | .exc05 _ _ _ => true
  | .exc06 _ _ _ | .exc07 _ _ _ | .exc08 _ _ _ | .exc0A _ _ _ | .exc0B _ _ _ => true
  | .tagBool use => tagUseWf (tagWord 0x0 0) use
  | .tagInt8 use => tagUseWf (tagWord 0x1 0) use
  | .tagUint8 use => tagUseWf (tagWord 0x2 0) use
  | .tagInt16 use => tagUseWf (tagWord 0x3 0) use
  | .tagUint16 use => tagUseWf (tagWord 0x4 0) use
  | .tagInt32 use => tagUseWf (tagWord 0x5 0) use
  | .tagUint32 use => tagUseWf (tagWord 0x6 0) use
  | .tagInt64 use => tagUseWf (tagWord 0x7 0) use
  | .tagUint64 use => tagUseWf (tagWord 0x8 0) use
  | .tagReal32 use => tagUseWf (tagWord 0x9 0) use
  | .tagReal64 use => tagUseWf (tagWord 0xA 0) use
  | .tagString n use => tagUseWf (tagWord 0xB n) use
  | .crc16 _ | .parseS _ | .parseR _ => true
  | .validate r _ => requestWf r
  | .widthOf _ => true
  | .decode tag b => tagUseWf tag (.decode b)
  | .encode tag v => tagUseWf tag (.encode v)
  | .lookup _ _ => true
  | .load es => entriesWf es
  | .buildPos _ _ _ p => decide (p.length ≤ 255)
  | .buildNeg _ _ _ _ => true
  | .dispatch _ _ => true
  | .setEsa _ => true

/-- The instructions the command octets can spell (log entry 6): all of them, but for LOAD lists with
a payload of 65536 octets or more, which LOAD refuses anyway (R235). Every well-formed instruction is
among them. -/
def encodable (i : Instr) : Bool :=
  match i with
  | .load es => es.all fun e => decide (e.payload.length < 65536)
  | _ => true

end Sys2Proof
end

