-- ==== Sys2Proof/Safety.lean ====
section
/-! DEFINITION. The terms the claims are stated in: the launch premises of `10_state.md` R47, the
invariant of the machine, what "answers" and "keeps" mean, and the response frames of `30_encoding.md`
R93 to R96 as descriptions of an octet list. -/

namespace Sys2Proof.Machine

open Sys2Proof

/-- The premise `Loaded` of R47: LOADED = 1 and TABLE well-formed. -/
def Loaded (s : State) : Prop := s.loaded = true ∧ Memory.wf s.table = true

/-- The premise `EsaSet` of R47, with the address that SETESA wrote. -/
def EsaSet (s : State) (addr : Byte) : Prop := s.esa = some addr

/-- A buffer the engine accepts: no longer than `RX_MAX` (R41). -/
def Accepts (s : State) (raw : List Byte) : Prop := ∀ m, s.config.rxMax = some m → raw.length ≤ m

/-- The instruction completes with this result, and the result is all that changes. -/
def Answers (i : Instr) (s : State) (r : Result) : Prop :=
  exec i s = .next { s with results := s.results ++ [r] }

/-- The persistent triple of R30 and the configuration are the same. -/
def SamePersistent (s t : State) : Prop :=
  t.esa = s.esa ∧ t.loaded = s.loaded ∧ t.table = s.table ∧ t.config = s.config

/-- The invariant of the machine: TABLE is in its canonical, well-formed form (R33), it is empty until
it is loaded (R45), and the parameters are what R11 asks. -/
def Inv (s : State) : Prop :=
  Memory.wf s.table = true ∧ (s.loaded = false → s.table = []) ∧ configWf s.config = true

/-- What the 16-bit number of two octets is, high octet first (`00_scope.md` R15). -/
def pairNat (hi lo : Byte) : Nat := hi.toNat * 256 + lo.toNat

/-- The frame of a positive response: R93 for Streaming, R95 for Serial. -/
def PositiveFrame (link : Link) (addr func : Byte) (p out : List Byte) : Prop :=
  match link with
  | .streaming tid => ∃ t1 t0 l1 l0 n : Byte,
      out = [t1, t0, 0x00, 0x00, l1, l0, addr, func, n] ++ p ∧
      pairNat t1 t0 = tid.toNat ∧ pairNat l1 l0 = 3 + p.length ∧ n.toNat = p.length
  | .serial => ∃ n k1 k0 : Byte,
      out = [addr, func, n] ++ p ++ [k1, k0] ∧
      n.toNat = p.length ∧ pairNat k1 k0 = (crc16 ([addr, func, n] ++ p)).toNat

/-- The frame of a negative response: R94 for Streaming, R96 for Serial. Its function octet has bit 7
set and bits 6 to 0 of the request's (`45_response_builder.md` R256). -/
def NegativeFrame (link : Link) (addr func exc : Byte) (out : List Byte) : Prop :=
  ∃ g : Byte, g.toNat = 128 + func.toNat % 128 ∧
    match link with
    | .streaming tid => ∃ t1 t0 : Byte,
        out = [t1, t0, 0x00, 0x00, 0x00, 0x03, addr, g, exc] ∧ pairNat t1 t0 = tid.toNat
    | .serial => ∃ k1 k0 : Byte,
        out = [addr, g, exc, k1, k0] ∧ pairNat k1 k0 = (crc16 [addr, g, exc]).toNat

end Sys2Proof.Machine
end

