-- ==== Sys2Proof/Certificates/Slice0/Obligations.lean ====
section
/-! DEFINITION. The statements for the provers.

`Answers i s r` (Safety) says that exec completes with result r and that the result is all that changes:
it is at once the completion and the frame of an instruction that writes no persistent state
(`10_state.md` R46). -/

open Sys2Proof Sys2Proof.Machine

/-! Reset, step and invariants. -/

/-- R45, R330, R31: right after reset LOADED = 0, TABLE is empty and ESA is absent; and the invariant
holds there. -/
def Obligations.ResetStateMeetsTheInvariant : Prop :=
  Inv State.reset ∧ State.reset.loaded = false ∧ State.reset.table = [] ∧ State.reset.esa = none

/-- R33, R45, R11: the invariant, a canonical and well-formed table that is empty until LOADED, is kept
by every step from every state. -/
def Obligations.EveryStepKeepsTheInvariant : Prop :=
  ∀ s t : State, Inv s → step s = .next t → Inv t

/-- A step runs the decoded instruction: the next command is taken from the inbox, and what it decodes
to is executed in the state without it. Nothing else stands around exec. (The waiting list and the octets
of a command are the model's own, log entries 6 and 8.) -/
def Obligations.StepRunsTheDecodedInstruction : Prop :=
  ∀ (s : State) (c : Command) (rest : List Command) (i : Instr),
    s.inbox = c :: rest → decode c = .ok i → step s = exec i { s with inbox := rest }

/-- R104, R110: OPSEL 0xD to 0xF is refused, whatever octets follow it. With no command waiting the
machine idles (the model's choice, log entry 2). -/
def Obligations.ReservedSelectorsAreRefused : Prop :=
  (∀ (s : State) (sel : Byte) (operands : List Byte) (rest : List Command),
    13 ≤ sel.toNat → sel.toNat ≤ 15 → s.inbox = ⟨.opSel4, sel :: operands⟩ :: rest →
      step s = .refused .reservedOp) ∧
  (∀ s : State, s.inbox = [] → step s = .next s)

/-- R32, R236, R331, R31: no step clears LOADED or changes the table once it is loaded, and ESA is
never absent again once it is set. -/
def Obligations.LifecycleNeverGoesBack : Prop :=
  ∀ s t : State, step s = .next t →
    (s.loaded = true → t.loaded = true ∧ t.table = s.table) ∧
    (s.esa.isSome = true → t.esa.isSome = true) ∧
    (phase s = .serve → phase t = .serve)

/-- R46, R30: what each instruction leaves unchanged. Every instruction that completes delivers exactly
one result, at the end of the list (the model's own, log entry 4), and leaves the configuration and the waiting commands alone. Only
LOAD writes TABLE and LOADED: after every other instruction each key reads as before. Only SETESA
writes ESA. -/
def Obligations.OnlyLoadAndSetEsaWriteState : Prop :=
  ∀ (i : Instr) (s t : State), exec i s = .next t →
    t.config = s.config ∧ t.inbox = s.inbox ∧ (∃ r, t.results = s.results ++ [r]) ∧
    ((∀ es, i ≠ .load es) → t.loaded = s.loaded ∧ t.table = s.table ∧
      ∀ start count, tableRead t.table start count = tableRead s.table start count) ∧
    ((∀ a, i ≠ .setEsa a) → t.esa = s.esa)

/-- R303, R298: no instruction faults, and a local error that is delivered leaves the persistent state
as it was. -/
def Obligations.ErrorsLeaveNoTrace : Prop :=
  ∀ (i : Instr) (s : State),
    (∀ f, exec i s ≠ .fault f) ∧
    ∀ (t : State) (e : LocalError), exec i s = .next t → t.results = s.results ++ [.error e] →
      SamePersistent s t

/-- R23, R278: the result of every operation is a function of the operation and of (configuration,
ESA, LOADED, TABLE). Two states that agree on these, whatever commands wait and whatever was delivered
before, give the same result, the same refusals, and agree afterwards. -/
def Obligations.ResultsDependOnPersistentStateOnly : Prop :=
  ∀ (i : Instr) (s₁ s₂ : State), SamePersistent s₁ s₂ →
    (∀ t₁, exec i s₁ = .next t₁ → ∃ t₂ r, exec i s₂ = .next t₂ ∧ SamePersistent t₁ t₂ ∧
      t₁.results = s₁.results ++ [r] ∧ t₂.results = s₂.results ++ [r]) ∧
    (∀ x, exec i s₁ = .refused x → exec i s₂ = .refused x)

/-! Encoding. -/

/-- Words written out from R91, R92, R94, R96, R103 and R104 decode to the instruction they stand
for. (The width of a word tells its format: the model's choice, log entry 7.) -/
def Obligations.WordsOfTheTableDecode : Prop :=
  decodeTableWord 96 0x1234000000060103001A0002 = some (.streamRead03 0x1234 0x01 0x001A 0x0002 []) ∧
  decodeTableWord 64 0x0104000A000209E4 = some (.serialRead04 0x01 0x000A 0x0002 0x09E4) ∧
  decodeTableWord 72 0x000700000003018302 = some (.streamNeg 0x0007 0x01 0x03 0x02) ∧
  decodeTableWord 40 0x018302F1C0 = some (.serialNeg 0x01 0x03 0x02 0xF1C0) ∧
  decodeTableWord 16 0xB00C = some (.tagString 12 .widthOf) ∧
  decodeTableWord 8 0xC = some (.setEsa 0x00)

/-- Decode and encode agree: the decoder reads back every instruction the command octets can spell,
every well-formed instruction among them, with every operand at every value. (How operands are spelled
after a selector, a tag or a code is the model's choice, log entry 6.) -/
def Obligations.DecodeOfEncodeIsTheInstruction : Prop :=
  (∀ i : Instr, encodable i = true → decode (encode i) = .ok i) ∧
  (∀ i : Instr, wellFormed i = true → encodable i = true)

/-- R91 to R96: the other direction for the six frame formats. A frame that decodes to a row of its
format is the encoding of that row, so no octet of it is dropped. (A received buffer that matches no
request row decodes to DISPATCH of itself instead.) -/
def Obligations.EncodeOfDecodedFrameIsTheFrame : Prop :=
  ∀ (f : Format) (b : List Byte) (i : Instr),
    f ≠ .errCode8 → f ≠ .tag16 → f ≠ .opSel4 → decode ⟨f, b⟩ = .ok i →
    encode i = ⟨f, b⟩ ∨ (f = .streamReq ∧ i = .dispatch .streaming b) ∨
      (f = .serialReq ∧ i = .dispatch .serial b)

/-- R115: the request rows are those of the table's masks. A buffer of at least 12 octets (Streaming),
or of exactly 8 (Serial), decodes to a request row exactly when its leading octets, read as one
big-endian number, give the row's match under the row's mask. -/
def Obligations.RequestRowsAreTheMasksOfTheTable : Prop :=
  (∀ b : List Byte, 12 ≤ b.length →
    ((∃ tid addr start count extra, decode ⟨.streamReq, b⟩ = .ok (.streamRead03 tid addr start count extra)) ↔
      beNat (b.take 12) &&& 0x0000FFFFFFFF00FF00000000 = 0x000000000006000300000000) ∧
    ((∃ tid addr start count extra, decode ⟨.streamReq, b⟩ = .ok (.streamRead04 tid addr start count extra)) ↔
      beNat (b.take 12) &&& 0x0000FFFFFFFF00FF00000000 = 0x000000000006000400000000)) ∧
  (∀ b : List Byte, b.length = 8 →
    ((∃ addr start count crc, decode ⟨.serialReq, b⟩ = .ok (.serialRead03 addr start count crc)) ↔
      beNat b &&& 0x00FF000000000000 = 0x0003000000000000) ∧
    ((∃ addr start count crc, decode ⟨.serialReq, b⟩ = .ok (.serialRead04 addr start count crc)) ↔
      beNat b &&& 0x00FF000000000000 = 0x0004000000000000))

/-! CRC16. -/

/-- R170: CRC16 completes in every state with the value of the procedure: the seed 0xFFFF for no bytes,
and for each further byte the exclusive OR into the accumulator and eight rounds. -/
def Obligations.Crc16FollowsTheProcedure : Prop :=
  ∃ f : List Byte → Word,
    (∀ (b : List Byte) (s : State), Answers (.crc16 b) s (.word (f b))) ∧
    f [] = 0xFFFF ∧
    ∀ (b : List Byte) (x : Byte),
      f (b ++ [x]) =
        Nat.iterate (fun a : Word => if a.getLsbD 0 = true then (a >>> 1) ^^^ 0xA001 else a >>> 1) 8
          (f b ^^^ x.setWidth 16)

/-- R171: one round, bit by bit. -/
def Obligations.CrcRoundBitByBit : Prop :=
  ∀ a : Word,
    crcRound a = (a >>> 1) ^^^ (if a.getLsbD 0 = true then 0xA001 else 0x0000) ∧
    (crcRound a).getLsbD 15 = a.getLsbD 0 ∧
    (crcRound a).getLsbD 13 = (a.getLsbD 14 ^^ a.getLsbD 0) ∧
    (crcRound a).getLsbD 0 = (a.getLsbD 1 ^^ a.getLsbD 0) ∧
    ∀ k, k ≤ 14 → k ≠ 13 → k ≠ 0 → (crcRound a).getLsbD k = a.getLsbD (k + 1)

/-- R175: byte sequences of equal length that differ in exactly one bit have different CRC16 values. -/
def Obligations.CrcDetectsEverySingleBitError : Prop :=
  ∀ (p q : List Byte) (x : Byte) (k : Nat), k < 8 → ∀ s : State, ∃ c d : Word,
    Answers (.crc16 (p ++ [x] ++ q)) s (.word c) ∧
    Answers (.crc16 (p ++ [x ^^^ (1#8 <<< k)] ++ q)) s (.word d) ∧ c ≠ d

/-- R175, R295: flipping any single bit of a valid Serial request makes the validator report
ChecksumMismatch and makes DISPATCH answer with a negative response, five octets with bit 7 of the
function octet set. -/
def Obligations.SerialBitFlipIsReportedAndAnswered : Prop :=
  ∀ (s : State) (esa : Byte) (raw : List Byte) (r : Request) (j k : Nat),
    Loaded s → EsaSet s esa → Accepts s raw → raw.length = 8 →
    parseSerial raw = .ok r → (validate r esa).ok = true → j < 8 → k < 8 →
    let raw' := raw.set j (byteAt raw j ^^^ (1#8 <<< k))
    (∃ r' v, Answers (.parseR raw') s (.request r') ∧ Answers (.validate r' esa) s (.validation v) ∧
      v.ok = false ∧ v.reasons.checksumMismatch = true) ∧
    ∃ out, Answers (.dispatch .serial raw') s (.bytes out) ∧ out.length = 5 ∧
      (byteAt out 1).getLsbD 7 = true

/-! The codec. -/

/-- R141: WIDTHOF on every tag word, in every state. -/
def Obligations.WidthOfAnswersTheCodecWidth : Prop :=
  ∀ (tag : Word) (s : State),
    let kind := tag.toNat / 4096
    let n := tag.toNat % 4096
    (kind ≤ 10 → n = 0 →
      Answers (.widthOf tag) s (.width ([1, 1, 1, 2, 2, 4, 4, 8, 8, 4, 8].getD kind 0))) ∧
    (kind ≤ 10 → n ≠ 0 → Answers (.widthOf tag) s (.error (.invalidDataType tag))) ∧
    (kind = 11 → 1 ≤ n → n ≤ 255 → Answers (.widthOf tag) s (.width ((n + 1) / 2 * 2))) ∧
    (kind = 11 → n = 0 ∨ 255 < n → Answers (.widthOf tag) s (.error (.invalidDataType tag))) ∧
    (12 ≤ kind → Answers (.widthOf tag) s (.error (.invalidDataType tag)))

/-- R103: each tag row is the codec on the tag word the table gives it, in all three uses. (That a tag
row is run so is the model's reading, log entry 7.) -/
def Obligations.TagRowsRunTheCodecOnTheirWord : Prop :=
  ∀ s : State,
    (∀ p ∈ [(0x0000#16, Instr.tagBool), (0x1000#16, .tagInt8), (0x2000#16, .tagUint8),
        (0x3000#16, .tagInt16), (0x4000#16, .tagUint16), (0x5000#16, .tagInt32), (0x6000#16, .tagUint32),
        (0x7000#16, .tagInt64), (0x8000#16, .tagUint64), (0x9000#16, .tagReal32), (0xA000#16, .tagReal64)],
      exec (p.2 .widthOf) s = exec (.widthOf p.1) s ∧
      (∀ b, exec (p.2 (.decode b)) s = exec (.decode p.1 b) s) ∧
      (∀ v, exec (p.2 (.encode v)) s = exec (.encode p.1 v) s)) ∧
    (∀ n : BitVec 12,
      let tag : Word := BitVec.ofNat 16 (0xB000 + n.toNat)
      exec (.tagString n .widthOf) s = exec (.widthOf tag) s ∧
      (∀ b, exec (.tagString n (.decode b)) s = exec (.decode tag b) s) ∧
      (∀ v, exec (.tagString n (.encode v)) s = exec (.encode tag v) s))

/-- R145, R146: DECODE of BOOL and of the four unsigned tags, by the operation and by the tag's row. (That
a tag row runs as the operation is the model's reading, log entry 7.) -/
def Obligations.DecodeOfBoolAndUnsigned : Prop :=
  ∀ (s : State) (a b c d e f g h : Byte),
    (∀ i ∈ [Instr.decode 0x0000 [a], .tagBool (.decode [a])],
      Answers i s (.value (.bool (decide (a ≠ 0x00))))) ∧
    (∀ i ∈ [Instr.decode 0x2000 [a], .tagUint8 (.decode [a])],
      Answers i s (.value (.int (a.toNat : Int)))) ∧
    (∀ i ∈ [Instr.decode 0x4000 [a, b], .tagUint16 (.decode [a, b])],
      Answers i s (.value (.int (a.toNat * 2 ^ 8 + b.toNat : Int)))) ∧
    (∀ i ∈ [Instr.decode 0x6000 [a, b, c, d], .tagUint32 (.decode [a, b, c, d])],
      Answers i s (.value (.int (a.toNat * 2 ^ 24 + b.toNat * 2 ^ 16 + c.toNat * 2 ^ 8 + d.toNat : Int)))) ∧
    (∀ i ∈ [Instr.decode 0x8000 [a, b, c, d, e, f, g, h], .tagUint64 (.decode [a, b, c, d, e, f, g, h])],
      Answers i s (.value (.int (a.toNat * 2 ^ 56 + b.toNat * 2 ^ 48 + c.toNat * 2 ^ 40 + d.toNat * 2 ^ 32 +
        e.toNat * 2 ^ 24 + f.toNat * 2 ^ 16 + g.toNat * 2 ^ 8 + h.toNat : Int))))

/-- R147: DECODE of the four signed tags gives the two's complement number: the one in the tag's range
that is congruent to the big-endian unsigned number. (Two's complement is presumed, as R147 and G3 mark it,
log entry 10; that a tag row runs as the operation is the model's reading, log entry 7.) -/
def Obligations.DecodeOfSignedIsTwosComplement : Prop :=
  ∀ (s : State) (b : List Byte), ∀ p ∈ [(1, 0x1000#16, Instr.tagInt8), (2, 0x3000#16, .tagInt16),
      (4, 0x5000#16, .tagInt32), (8, 0x7000#16, .tagInt64)], b.length = p.1 →
    ∃ v : Int, Answers (.decode p.2.1 b) s (.value (.int v)) ∧
      Answers (p.2.2 (.decode b)) s (.value (.int v)) ∧
      -(2 ^ (8 * p.1 - 1)) ≤ v ∧ v < 2 ^ (8 * p.1 - 1) ∧ v % 2 ^ (8 * p.1) = (beNat b : Int)

/-- R149: a floating-point value is moved as its pattern, in both directions, every pattern alike. (That a
tag row runs as the operation is the model's reading, log entry 7.) -/
def Obligations.RealsMoveAsPatterns : Prop :=
  ∀ (s : State) (p : BitVec 32) (q : BitVec 64),
    let pb := [p.extractLsb' 24 8, p.extractLsb' 16 8, p.extractLsb' 8 8, p.extractLsb' 0 8]
    let qb := [q.extractLsb' 56 8, q.extractLsb' 48 8, q.extractLsb' 40 8, q.extractLsb' 32 8,
      q.extractLsb' 24 8, q.extractLsb' 16 8, q.extractLsb' 8 8, q.extractLsb' 0 8]
    Answers (.encode 0x9000 (.real32 p)) s (.bytes pb) ∧
    Answers (.decode 0x9000 pb) s (.value (.real32 p)) ∧
    Answers (.tagReal32 (.encode (.real32 p))) s (.bytes pb) ∧
    Answers (.tagReal32 (.decode pb)) s (.value (.real32 p)) ∧
    Answers (.encode 0xA000 (.real64 q)) s (.bytes qb) ∧
    Answers (.decode 0xA000 qb) s (.value (.real64 q)) ∧
    Answers (.tagReal64 (.encode (.real64 q))) s (.bytes qb) ∧
    Answers (.tagReal64 (.decode qb)) s (.value (.real64 q))

/-- R151: DECODE of STRING(n) gives exactly n characters from a buffer of any length, cut or filled at
the end `STR_PAD` names. (That the tag row runs as the operation is the model's reading, log entry 7.) -/
def Obligations.DecodeOfStringCutsOrFills : Prop :=
  ∀ (s : State) (n : BitVec 12) (b : List Byte), 1 ≤ n.toNat → n.toNat ≤ 255 →
    ∃ chars : List Byte,
      Answers (.decode (tagWord 0xB n) b) s (.value (.string chars)) ∧
      Answers (.tagString n (.decode b)) s (.value (.string chars)) ∧
      chars.length = n.toNat ∧
      (s.config.strPad = .leading → n.toNat ≤ b.length → ∃ cut, b = cut ++ chars) ∧
      (s.config.strPad = .leading → b.length < n.toNat →
        chars = List.replicate (n.toNat - b.length) s.config.fill ++ b) ∧
      (s.config.strPad = .trailing → n.toNat ≤ b.length → ∃ cut, b = chars ++ cut) ∧
      (s.config.strPad = .trailing → b.length < n.toNat →
        chars = b ++ List.replicate (n.toNat - b.length) s.config.fill)

/-- R150: ENCODE of STRING(n), by the operation and by the tag's row. (That the tag row runs as the
operation is the model's reading, log entry 7.) -/
def Obligations.EncodeOfStringPads : Prop :=
  ∀ (s : State) (n : BitVec 12) (chars : List Byte), 1 ≤ n.toNat → n.toNat ≤ 255 →
    (chars.length = n.toNat →
      ∃ out, Answers (.encode (tagWord 0xB n) (.string chars)) s (.bytes out) ∧
        Answers (.tagString n (.encode (.string chars))) s (.bytes out) ∧
        out.length = (n.toNat + 1) / 2 * 2 ∧
        (n.toNat % 2 = 0 → out = chars) ∧
        (n.toNat % 2 = 1 → s.config.strPad = .leading → out = s.config.fill :: chars) ∧
        (n.toNat % 2 = 1 → s.config.strPad = .trailing → out = chars ++ [s.config.fill])) ∧
    (chars.length ≠ n.toNat →
      exec (.encode (tagWord 0xB n) (.string chars)) s = .refused .encodeRange ∧
      exec (.tagString n (.encode (.string chars))) s = .refused .encodeRange)

/-- R152: ENCODE of BOOL and of every integer in its tag's range, by the operation and by the tag's
row: W bytes whose big-endian number is v modulo 2^(8W). (Three clauses rest on more than the rule's plain
words: 0x01 for a true BOOL on log entry 11, which keeps to R152 where I17 leaves the real software any byte
but 0x00; two's complement on log entry 10, presumed; the tag rows on log entry 7.) -/
def Obligations.EncodeOfBoolAndIntegers : Prop :=
  (∀ (s : State) (v : Bool), ∀ i ∈ [Instr.encode 0x0000 (.bool v), .tagBool (.encode (.bool v))],
    Answers i s (.bytes [if v = true then 0x01 else 0x00])) ∧
  (∀ (s : State) (v : Int), ∀ p ∈ [(1, 0x2000#16, Instr.tagUint8), (2, 0x4000#16, .tagUint16),
      (4, 0x6000#16, .tagUint32), (8, 0x8000#16, .tagUint64)], 0 ≤ v → v < 2 ^ (8 * p.1) →
    ∃ out, Answers (.encode p.2.1 (.int v)) s (.bytes out) ∧
      Answers (p.2.2 (.encode (.int v))) s (.bytes out) ∧
      out.length = p.1 ∧ (beNat out : Int) = v) ∧
  (∀ (s : State) (v : Int), ∀ p ∈ [(1, 0x1000#16, Instr.tagInt8), (2, 0x3000#16, .tagInt16),
      (4, 0x5000#16, .tagInt32), (8, 0x7000#16, .tagInt64)],
      -(2 ^ (8 * p.1 - 1)) ≤ v → v < 2 ^ (8 * p.1 - 1) →
    ∃ out, Answers (.encode p.2.1 (.int v)) s (.bytes out) ∧
      Answers (p.2.2 (.encode (.int v))) s (.bytes out) ∧
      out.length = p.1 ∧ (beNat out : Int) = v % 2 ^ (8 * p.1))

/-- R144, R152, R306: where the codec stops. A bad tag is the local error InvalidDataType in all three
operations, before any refusal; DECODE of a fixed-width tag refuses every other length; ENCODE refuses
exactly the values that are not of the tag's kind or not in its range. (That an integer value has no
signedness of its own, so that a value of any integer tag is of the kind of every other, is deduced, log
entry 9.) -/
def Obligations.CodecStopsOutsideItsDomain : Prop :=
  ∀ (s : State) (tag : Word),
    (tagOfWord tag = none →
      Answers (.widthOf tag) s (.error (.invalidDataType tag)) ∧
      (∀ b, Answers (.decode tag b) s (.error (.invalidDataType tag))) ∧
      (∀ v, Answers (.encode tag v) s (.error (.invalidDataType tag)))) ∧
    (∀ t, tagOfWord tag = some t →
      (∀ b : List Byte, (∀ n, t ≠ .string n) → b.length ≠ tagWidth t →
        exec (.decode tag b) s = .refused .decodeLength) ∧
      (∀ v, (∃ out, Answers (.encode tag v) s (.bytes out)) ↔ valueFits t v = true) ∧
      (∀ v, valueFits t v = false → exec (.encode tag v) s = .refused .encodeRange))

/-- R153: the round trip. What ENCODE gives has the tag's width and decodes to the value, for every tag,
every value ENCODE takes, both settings of `STR_PAD` and every `FILL`. The converse holds for integer and
floating-point tags, and fails for BOOL on a byte other than 0x00 and 0x01 and for an odd-length string
whose filler position holds another byte. (That true encodes to 0x01 and to no other byte is log entry 11;
that an integer value has no signedness of its own is log entry 9.) -/
def Obligations.CodecRoundTrip : Prop :=
  (∀ (s : State) (tag : Word) (v : TypedValue) (b : List Byte), Answers (.encode tag v) s (.bytes b) →
    Answers (.decode tag b) s (.value v) ∧ Answers (.widthOf tag) s (.width b.length)) ∧
  (∀ (s : State) (tag : Word) (v : TypedValue) (b : List Byte),
    1 ≤ tag.toNat / 4096 → tag.toNat / 4096 ≤ 10 →
    Answers (.decode tag b) s (.value v) → Answers (.encode tag v) s (.bytes b)) ∧
  (∀ (s : State) (x : Byte), x ≠ 0x00 → x ≠ 0x01 →
    Answers (.decode 0x0000 [x]) s (.value (.bool true)) ∧
    ¬ Answers (.encode 0x0000 (.bool true)) s (.bytes [x])) ∧
  (∀ (s : State) (n : BitVec 12) (x : Byte) (chars : List Byte),
    n.toNat % 2 = 1 → n.toNat ≤ 255 → chars.length = n.toNat → x ≠ s.config.fill →
    let b := if s.config.strPad = .leading then x :: chars else chars ++ [x]
    Answers (.decode (tagWord 0xB n) b) s (.value (.string chars)) ∧
    ¬ Answers (.encode (tagWord 0xB n) (.string chars)) s (.bytes b))

/-- R143, R154, R155: the register image fills whole registers, with `FILL` in front of the encoded
value, and reading the value out of it gives it back. -/
def Obligations.ImageRoundTrip : Prop :=
  ∀ (c : Config) (t : Tag) (v : TypedValue) (b : List Byte), encodeValue c t v = some b →
    ∃ p, image c t v = some p ∧ p.length = 2 * regCount t ∧ unimage c t p = v ∧
      (t = .bool ∨ t = .int8 ∨ t = .uint8 → p = c.fill :: b) ∧
      (t ≠ .bool → t ≠ .int8 → t ≠ .uint8 → p = b)

/-! The parsers. -/

/-- R191, R192, R193, R194: PARSE_S on every buffer the engine accepts. -/
def Obligations.ParseStreamingExtractsTheFields : Prop :=
  ∀ (s : State) (b : List Byte), Accepts s b →
    (b.length < 12 → Answers (.parseS b) s (.error (.frameTooShort b.length))) ∧
    (12 ≤ b.length → ∀ pid : Word, pid.toNat = pairNat (byteAt b 2) (byteAt b 3) → pid ≠ 0 →
      Answers (.parseS b) s (.error (.protocolIdMismatch pid))) ∧
    (12 ≤ b.length → pairNat (byteAt b 2) (byteAt b 3) = 0 →
      ∃ tid len start count : Word,
        Answers (.parseS b) s (.request (.streaming tid len
          { slaveAddress := byteAt b 6, functionCode := byteAt b 7, startRegister := start,
            registerCount := count, rawBytes := b })) ∧
        tid.toNat = pairNat (byteAt b 0) (byteAt b 1) ∧ len.toNat = pairNat (byteAt b 4) (byteAt b 5) ∧
        start.toNat = pairNat (byteAt b 8) (byteAt b 9) ∧
        count.toNat = pairNat (byteAt b 10) (byteAt b 11))

/-- R195, R196: PARSE_R on every buffer the engine accepts; the CRC16 field is the last two octets. -/
def Obligations.ParseSerialExtractsTheFields : Prop :=
  ∀ (s : State) (b : List Byte), Accepts s b →
    (b.length < 8 → Answers (.parseR b) s (.error (.frameTooShort b.length))) ∧
    (8 ≤ b.length →
      ∃ start count crc : Word,
        Answers (.parseR b) s (.request (.serial crc
          { slaveAddress := byteAt b 0, functionCode := byteAt b 1, startRegister := start,
            registerCount := count, rawBytes := b })) ∧
        start.toNat = pairNat (byteAt b 2) (byteAt b 3) ∧ count.toNat = pairNat (byteAt b 4) (byteAt b 5) ∧
        crc.toNat = pairNat (byteAt b (b.length - 2)) (byteAt b (b.length - 1)))

/-- R299: the parsers and DISPATCH refuse a buffer longer than `RX_MAX`, and nothing shorter. -/
def Obligations.BuffersBeyondRxMaxAreRefused : Prop :=
  ∀ (s : State) (b : List Byte),
    (¬ Accepts s b → exec (.parseS b) s = .refused .bufferTooLong ∧
      exec (.parseR b) s = .refused .bufferTooLong ∧
      (∀ a, Loaded s → EsaSet s a → ∀ t, exec (.dispatch t b) s = .refused .bufferTooLong)) ∧
    (Accepts s b → (∃ r, Answers (.parseS b) s r) ∧ (∃ r, Answers (.parseR b) s r) ∧
      (∀ a, Loaded s → EsaSet s a → ∀ t, ∃ out, Answers (.dispatch t b) s (.bytes out)))

/-! The validator. -/

/-- R210, R212 to R217: VALIDATE completes on every Request, and each kind is reported exactly when its
check fails. (A Serial Request with fewer than six raw octets comes from no parser. That VALIDATE runs on it
is the model's choice, log entry 5; its checksum check is a free value, so that clause asks for six
octets.) -/
def Obligations.ValidateReportsEveryViolation : Prop :=
  ∀ (s : State) (r : Request) (expected : Byte), ∃ v,
    Answers (.validate r expected) s (.validation v) ∧
    (v.ok = true ↔ v.reasons = ⟨false, false, false, false⟩) ∧
    (v.reasons.addressMismatch = true ↔ (requestFields r).slaveAddress ≠ expected) ∧
    (v.reasons.unsupportedFunction = true ↔
      (requestFields r).functionCode ≠ 0x03 ∧ (requestFields r).functionCode ≠ 0x04) ∧
    (∀ tid len f, r = .streaming tid len f →
      (v.reasons.lengthMismatch = true ↔ len.toNat ≠ 6) ∧ v.reasons.checksumMismatch = false) ∧
    (∀ crc f, r = .serial crc f →
      (v.reasons.lengthMismatch = true ↔ f.rawBytes.length ≠ 8) ∧
      (6 ≤ f.rawBytes.length → ∃ c, Answers (.crc16 (f.rawBytes.take 6)) s (.word c) ∧
        (v.reasons.checksumMismatch = true ↔ c ≠ crc)))

/-! The register store. -/

/-- R231, R233, R64: LOOKUP answers the payload at the exact key, `none` where no object has that key,
and is refused before LOAD. -/
def Obligations.LookupIsByExactKey : Prop :=
  ∀ (s : State) (start count : Word),
    (s.loaded = false → exec (.lookup start count) s = .refused .notLoaded) ∧
    (Loaded s → (∀ e ∈ s.table, e.start = start → e.count = count →
        Answers (.lookup start count) s (.payload (some e.payload))) ∧
      ((∀ e ∈ s.table, ¬ (e.start = start ∧ e.count = count)) →
        Answers (.lookup start count) s (.payload none)))

/-- R232: a payload LOOKUP answers has 2 x count bytes. -/
def Obligations.LookupAnswersTwoBytesARegister : Prop :=
  ∀ (s : State) (start count : Word) (p : List Byte), Loaded s →
    Answers (.lookup start count) s (.payload (some p)) →
    p.length = 2 * count.toNat ∧ 2 ≤ p.length ∧ p.length ≤ 254

/-- R234, R235, R67, R74: LOAD into an unloaded engine completes on every list whose entries have a count
from 1 to 127 and a payload of 2 x count bytes and whose keys are distinct; afterwards LOADED = 1,
TABLE is in canonical form, every loaded key answers its payload and every other key misses; ESA and
everything else is as it was. -/
def Obligations.LoadFillsTheTable : Prop :=
  ∀ (s : State) (es : List Entry), s.loaded = false →
    (∀ e ∈ es, 1 ≤ e.count.toNat ∧ e.count.toNat ≤ 127 ∧ e.payload.length = 2 * e.count.toNat) →
    (es.map fun e => (e.start, e.count)).Nodup →
    ∃ t, exec (.load es) s = .next t ∧ Loaded t ∧ t.esa = s.esa ∧ t.config = s.config ∧
      t.inbox = s.inbox ∧ t.results = s.results ++ [.done] ∧
      (∀ e ∈ es, Answers (.lookup e.start e.count) t (.payload (some e.payload))) ∧
      (∀ start count, (∀ e ∈ es, ¬ (e.start = start ∧ e.count = count)) →
        Answers (.lookup start count) t (.payload none))

/-- R235, R236: what LOAD refuses: every list once it is loaded; before that, exactly the lists with a
bad entry (a count outside 1 to 127, or a payload that is not 2 x count bytes) or a key that stands twice.
(Which of the two names a list with both defects gets is the model's choice, log entry 14, and is left
open here.) -/
def Obligations.LoadRefusesWhatIsNotWellFormed : Prop :=
  ∀ (s : State) (es : List Entry),
    let good := fun e : Entry => 1 ≤ e.count.toNat ∧ e.count.toNat ≤ 127 ∧ e.payload.length = 2 * e.count.toNat
    let keys := es.map fun e => (e.start, e.count)
    (s.loaded = true → exec (.load es) s = .refused .alreadyLoaded) ∧
    (s.loaded = false → (∀ e ∈ es, good e) → ¬ keys.Nodup → exec (.load es) s = .refused .duplicateKey) ∧
    (s.loaded = false → keys.Nodup → (∃ e ∈ es, ¬ good e) → exec (.load es) s = .refused .badEntry) ∧
    (s.loaded = false → ¬ keys.Nodup → (∃ e ∈ es, ¬ good e) →
      exec (.load es) s = .refused .badEntry ∨ exec (.load es) s = .refused .duplicateKey)

/-- R237, R271: SETESA completes in every state with every address and changes ESA alone, and from then
on DISPATCH checks requests against that address: a request parsed with another one is answered with a
negative response, and a request with this address is answered as VALIDATE with this address, then LOOKUP
and a builder, would answer it. -/
def Obligations.SetEsaIsTheAddressDispatchExpects : Prop :=
  ∀ (s : State) (a : Byte),
    ∃ t, exec (.setEsa a) s = .next t ∧ t.esa = some a ∧ t.loaded = s.loaded ∧ t.table = s.table ∧
      t.config = s.config ∧ t.inbox = s.inbox ∧ t.results = s.results ++ [.done] ∧
      ∀ (tr : Transport) (raw : List Byte) (r : Request), Loaded s → Accepts s raw → parse tr raw = .ok r →
        let f := requestFields r
        (f.slaveAddress ≠ a → ∃ exc out, Answers (.dispatch tr raw) t (.bytes out) ∧
          NegativeFrame (requestLink r) f.slaveAddress f.functionCode exc out) ∧
        (f.slaveAddress = a → ∀ v, Answers (.validate r a) t (.validation v) →
          v.reasons.addressMismatch = false ∧
          (v.ok = true → ∀ p, Answers (.lookup f.startRegister f.registerCount) t (.payload (some p)) →
            exec (.dispatch tr raw) t = exec (.buildPos (requestLink r) a f.functionCode p) t) ∧
          (v.ok = true → Answers (.lookup f.startRegister f.registerCount) t (.payload none) →
            exec (.dispatch tr raw) t = exec (.buildNeg (requestLink r) a f.functionCode 0x02) t) ∧
          (v.ok = false → exec (.dispatch tr raw) t =
            exec (.buildNeg (requestLink r) a f.functionCode (excSel t.config v.reasons)) t))

/-- R11, R70, R72, R332: the start-up list. In every unloaded engine whose parameters are what R11 asks, with
counts LOAD takes, LOAD of the list made from TABLE_KEYS and TABLE_VALUES completes and every key answers
its own payload. With the 21 default keys and any payloads of 2 x count bytes it completes, and the
misses of R64 miss. -/
def Obligations.DefaultTableServesItsKeys : Prop :=
  (∀ (s : State) (values : List (List Byte)), s.loaded = false → configWf s.config = true →
    s.config.tableValues = some values →
    (∀ k ∈ s.config.tableKeys, 1 ≤ k.count.toNat ∧ k.count.toNat ≤ 127) →
    ∃ t, exec (.load (startupEntries s.config)) s = .next t ∧
      ∀ kv ∈ s.config.tableKeys.zip values,
        Answers (.lookup kv.1.start kv.1.count) t (.payload (some kv.2))) ∧
  (∀ (s : State) (values : List (List Byte)), s.loaded = false → s.config.tableKeys = defaultTableKeys →
    s.config.tableValues = some values →
    values.map List.length = [2, 2, 2, 2, 4, 4, 4, 4, 6, 6, 8, 8, 4, 8, 2, 2, 4, 6, 8, 10, 12] →
    ∃ t, exec (.load (startupEntries s.config)) s = .next t ∧
      (∀ i : Fin 21, Answers (.lookup
          (([0, 1, 2, 3, 4, 6, 8, 10, 12, 15, 18, 22, 26, 28, 32, 33, 34, 36, 39, 43, 48] : List Word).getD i 0)
          (([1, 1, 1, 1, 2, 2, 2, 2, 3, 3, 4, 4, 2, 4, 1, 1, 2, 3, 4, 5, 6] : List Word).getD i 0)) t
        (.payload (some (values.getD i [])))) ∧
      (∀ p ∈ [(4, 1), (5, 1), (0, 2), (0, 99), (54, 1), (65535, 1), (0, 0)],
        Answers (.lookup (BitVec.ofNat 16 p.1) (BitVec.ofNat 16 p.2)) t (.payload none)))

/-! The builders. -/

/-- R252, R253, R258: BUILD_POS completes on every payload of at most 255 bytes with the positive frame of
its transport, and refuses every longer one. -/
def Obligations.BuildPosEmitsThePositiveFrame : Prop :=
  ∀ (s : State) (link : Link) (addr func : Byte) (p : List Byte),
    (p.length ≤ 255 → ∃ out, Answers (.buildPos link addr func p) s (.bytes out) ∧
      PositiveFrame link addr func p out) ∧
    (255 < p.length → exec (.buildPos link addr func p) s = .refused .payloadTooLong)

/-- R254, R257, R255, R256: BUILD_NEG completes on every operand with the negative frame of its transport,
the exception code passed through. -/
def Obligations.BuildNegEmitsTheNegativeFrame : Prop :=
  ∀ (s : State) (link : Link) (addr func exc : Byte),
    ∃ out, Answers (.buildNeg link addr func exc) s (.bytes out) ∧ NegativeFrame link addr func exc out

/-- R255, R99: each of the ten exception code rows completes with the negative frame that carries its
code. (That such a row is run so is the model's reading, log entry 7.) -/
def Obligations.ExceptionCodeRowsCarryTheirCode : Prop :=
  ∀ (s : State) (link : Link) (addr func : Byte),
    ∀ p ∈ [(0x01#8, Instr.exc01 link addr func), (0x02#8, .exc02 link addr func),
      (0x03#8, .exc03 link addr func), (0x04#8, .exc04 link addr func), (0x05#8, .exc05 link addr func),
      (0x06#8, .exc06 link addr func), (0x07#8, .exc07 link addr func), (0x08#8, .exc08 link addr func),
      (0x0A#8, .exc0A link addr func), (0x0B#8, .exc0B link addr func)],
    ∃ out, Answers p.2 s (.bytes out) ∧ NegativeFrame link addr func p.1 out

/-- R93 to R96: a well-formed response row completes with exactly the octets it is encoded in. With other
values in the computed fields (LEN, BYTECOUNT, CRC16) the row still emits the frame the builder
computes, and a payload longer than 255 bytes is refused. (That a response row is run as its builder is
the model's reading, log entry 7.) -/
def Obligations.ResponseRowsEmitTheirOwnFrame : Prop :=
  ∀ s : State,
    (∀ i : Instr, wellFormed i = true →
      (encode i).format = .streamPos ∨ (encode i).format = .streamNeg ∨
        (encode i).format = .serialPos ∨ (encode i).format = .serialNeg →
      Answers i s (.bytes (encode i).bytes)) ∧
    (∀ (tid len crc : Word) (addr func bc : Byte) (data : List Byte),
      (data.length ≤ 255 →
        (∃ out, Answers (.streamPos tid len addr func bc data) s (.bytes out) ∧
          PositiveFrame (.streaming tid) addr func data out) ∧
        (∃ out, Answers (.serialPos addr func bc data crc) s (.bytes out) ∧
          PositiveFrame .serial addr func data out)) ∧
      (255 < data.length →
        exec (.streamPos tid len addr func bc data) s = .refused .payloadTooLong ∧
        exec (.serialPos addr func bc data crc) s = .refused .payloadTooLong)) ∧
    (∀ (tid crc : Word) (addr exc : Byte) (func : BitVec 7),
      (∃ out, Answers (.streamNeg tid addr func exc) s (.bytes out) ∧
        NegativeFrame (.streaming tid) addr (func.setWidth 8) exc out) ∧
      (∃ out, Answers (.serialNeg addr func exc crc) s (.bytes out) ∧
        NegativeFrame .serial addr (func.setWidth 8) exc out))

/-- R112: a receiver finds the length of every frame the builders emit: 6 + LEN for Streaming; for Serial
by bit 7 of FUNC, the constant 5 or 5 + BYTECOUNT (a positive response to a request whose own FUNC has
bit 7 set would be misread, and DISPATCH sends none). -/
def Obligations.ReceiverFindsTheLength : Prop :=
  ∀ (s : State) (addr func exc : Byte) (tid : Word) (p : List Byte), p.length ≤ 255 →
    (∃ out, Answers (.buildPos (.streaming tid) addr func p) s (.bytes out) ∧
      out.length = streamResponseLength out) ∧
    (∃ out, Answers (.buildNeg (.streaming tid) addr func exc) s (.bytes out) ∧
      out.length = streamResponseLength out) ∧
    (func.getLsbD 7 = false → ∃ out, Answers (.buildPos .serial addr func p) s (.bytes out) ∧
      out.length = serialResponseLength out) ∧
    (∃ out, Answers (.buildNeg .serial addr func exc) s (.bytes out) ∧
      out.length = serialResponseLength out)

/-! The dispatcher. -/

/-- R279: the preconditions of DISPATCH, and of the four request rows, which are DISPATCH of their frame
(the model's reading, log entry 7). (That NotLoaded and EsaUnset come before BufferTooLong where several
hold is the model's choice, log entry 19; NotLoaded before EsaUnset is the spec's, V-DSP's refusals.) -/
def Obligations.DispatchRefusesBeforeSetUp : Prop :=
  ∀ s : State,
    (∀ (tr : Transport) (raw : List Byte),
      (s.loaded = false → exec (.dispatch tr raw) s = .refused .notLoaded) ∧
      (s.loaded = true → s.esa = none → exec (.dispatch tr raw) s = .refused .esaUnset) ∧
      (∀ a, s.loaded = true → EsaSet s a → ¬ Accepts s raw →
        exec (.dispatch tr raw) s = .refused .bufferTooLong)) ∧
    (∀ (addr : Byte) (tid start count crc : Word) (extra : List Byte),
      ∀ i ∈ [Instr.streamRead03 tid addr start count extra, .streamRead04 tid addr start count extra,
          .serialRead03 addr start count crc, .serialRead04 addr start count crc],
        (s.loaded = false → exec i s = .refused .notLoaded) ∧
        (s.loaded = true → s.esa = none → exec i s = .refused .esaUnset) ∧
        (∀ a, s.loaded = true → EsaSet s a → ¬ Accepts s (encode i).bytes →
          exec i s = .refused .bufferTooLong))

/-- R272, R197: a parse error gives the empty byte sequence and nothing else. -/
def Obligations.ParseErrorGivesNoBytes : Prop :=
  ∀ (s : State) (a : Byte) (raw : List Byte), Loaded s → EsaSet s a → Accepts s raw →
    (raw.length < 12 → Answers (.dispatch .streaming raw) s (.bytes [])) ∧
    (12 ≤ raw.length → pairNat (byteAt raw 2) (byteAt raw 3) ≠ 0 →
      Answers (.dispatch .streaming raw) s (.bytes [])) ∧
    (raw.length < 8 → Answers (.dispatch .serial raw) s (.bytes []))

/-- R270: DISPATCH is the chain of the unit operations. What PARSE, VALIDATE, LOOKUP and a builder answer
one after the other is what DISPATCH answers in one step, with 0x02 on a miss and, on a violation, the
code of the first reported kind of `VIOL_PRIORITY` (R274). -/
def Obligations.DispatchIsTheChainOfUnitOperations : Prop :=
  ∀ (s : State) (a : Byte) (tr : Transport) (raw : List Byte), Loaded s → EsaSet s a → Accepts s raw →
    let parser : Instr := match tr with | .streaming => .parseS raw | .serial => .parseR raw
    (∀ e, Answers parser s (.error e) → Answers (.dispatch tr raw) s (.bytes [])) ∧
    ∀ r v, Answers parser s (.request r) → Answers (.validate r a) s (.validation v) →
      let f := requestFields r
      (v.ok = true → ∀ p, Answers (.lookup f.startRegister f.registerCount) s (.payload (some p)) →
        exec (.dispatch tr raw) s = exec (.buildPos (requestLink r) f.slaveAddress f.functionCode p) s) ∧
      (v.ok = true → Answers (.lookup f.startRegister f.registerCount) s (.payload none) →
        exec (.dispatch tr raw) s = exec (.buildNeg (requestLink r) f.slaveAddress f.functionCode 0x02) s) ∧
      (v.ok = false →
        exec (.dispatch tr raw) s =
          exec (.buildNeg (requestLink r) f.slaveAddress f.functionCode (excSel s.config v.reasons)) s)

/-- R274: EXCSEL under the default priority, with every value of the four codes; and under every
well-formed priority the code sent is that of a reported kind before which no kind is reported. -/
def Obligations.ExceptionCodeFollowsThePriority : Prop :=
  (∀ (c : Config) (r : Reasons), c.violPriority = defaultPriority →
    (r.addressMismatch = true → excSel c r = c.excAddr) ∧
    (r.addressMismatch = false → r.checksumMismatch = true → excSel c r = c.excCrc) ∧
    (r.addressMismatch = false → r.checksumMismatch = false → r.unsupportedFunction = true →
      excSel c r = c.excFunc) ∧
    (r = ⟨true, false, false, false⟩ → excSel c r = c.excLen)) ∧
  (∀ (c : Config) (r : Reasons), configWf c = true → reasonsEmpty r = false →
    ∃ k : Violation, hasViolation r k = true ∧ excSel c r = violationCode c k ∧
      ∀ k', [c.violPriority.first, c.violPriority.second, c.violPriority.third, c.violPriority.fourth].idxOf k' <
        [c.violPriority.first, c.violPriority.second, c.violPriority.third, c.violPriority.fourth].idxOf k →
        hasViolation r k' = false)

/-- R280: the outcome classes of DISPATCH for a parsed request, under the default priority, each with its
condition: four negative outcomes by violation, 0x02 for a key that is not in TABLE, positive
otherwise. -/
def Obligations.DispatchOutcomeClasses : Prop :=
  ∀ (s : State) (a : Byte) (tr : Transport) (raw : List Byte) (r : Request) (v : ValidationResult),
    Loaded s → EsaSet s a → Accepts s raw → s.config.violPriority = defaultPriority →
    parse tr raw = .ok r → Answers (.validate r a) s (.validation v) →
    let f := requestFields r
    let negative := fun exc => ∃ out, Answers (.dispatch tr raw) s (.bytes out) ∧
      NegativeFrame (requestLink r) f.slaveAddress f.functionCode exc out
    (v.reasons.addressMismatch = true → negative s.config.excAddr) ∧
    (v.reasons.addressMismatch = false → v.reasons.checksumMismatch = true → negative s.config.excCrc) ∧
    (v.reasons.addressMismatch = false → v.reasons.checksumMismatch = false →
      v.reasons.unsupportedFunction = true → negative s.config.excFunc) ∧
    (v.reasons = ⟨true, false, false, false⟩ → negative s.config.excLen) ∧
    (v.reasons = ⟨false, false, false, false⟩ →
      (∀ e ∈ s.table, ¬ (e.start = f.startRegister ∧ e.count = f.registerCount)) → negative 0x02) ∧
    (v.reasons = ⟨false, false, false, false⟩ →
      ∀ e ∈ s.table, e.start = f.startRegister → e.count = f.registerCount →
        ∃ out, Answers (.dispatch tr raw) s (.bytes out) ∧
          PositiveFrame (requestLink r) f.slaveAddress f.functionCode e.payload out)

/-- R91, R92, R277, R275, R213: the four request rows complete in every set-up engine that accepts their
frame, under every priority: with the payload of their key, with 0x02 where no object has it (a Serial row
carries its CRC16 in both), and with a negative response when they name another address, whose code is
`EXC_ADDR` under the default priority. (That a request row is run as
DISPATCH of its frame is the model's reading, log entry 7.) -/
def Obligations.RequestRowsAreAnswered : Prop :=
  ∀ (s : State) (a addr : Byte) (tid start count crc : Word) (extra : List Byte),
    Loaded s → EsaSet s a →
    ∀ p ∈ [(Link.streaming tid, 0x03#8, Instr.streamRead03 tid addr start count extra),
        (.streaming tid, 0x04#8, .streamRead04 tid addr start count extra),
        (.serial, 0x03#8, .serialRead03 addr start count crc),
        (.serial, 0x04#8, .serialRead04 addr start count crc)],
      Accepts s (encode p.2.2).bytes →
      let checksumGood := p.1 = .serial → crc = crc16 ((encode p.2.2).bytes.take 6)
      (addr = a → checksumGood → ∀ e ∈ s.table, e.start = start → e.count = count →
        ∃ out, Answers p.2.2 s (.bytes out) ∧ PositiveFrame p.1 addr p.2.1 e.payload out) ∧
      (addr = a → checksumGood → (∀ e ∈ s.table, ¬ (e.start = start ∧ e.count = count)) →
        ∃ out, Answers p.2.2 s (.bytes out) ∧ NegativeFrame p.1 addr p.2.1 0x02 out) ∧
      (addr ≠ a → ∃ exc out, Answers p.2.2 s (.bytes out) ∧ NegativeFrame p.1 addr p.2.1 exc out ∧
        (s.config.violPriority = defaultPriority → exc = s.config.excAddr))

/-- R216, R274: a Serial request row whose CRC16 field is not the CRC16 of its first six octets is
answered all the same, with `EXC_CRC` when the address is right (default priority), in every engine
that is set up and whatever its key. (That a Serial request row is run as DISPATCH of its frame is the model's
reading, log entry 7.) -/
def Obligations.BadChecksumIsAnswered : Prop :=
  ∀ (s : State) (addr : Byte) (start count crc : Word),
    Loaded s → EsaSet s addr → s.config.violPriority = defaultPriority →
    ∀ p ∈ [(0x03#8, Instr.serialRead03 addr start count crc), (0x04#8, .serialRead04 addr start count crc)],
      Accepts s (encode p.2).bytes → crc ≠ crc16 ((encode p.2).bytes.take 6) →
      ∃ out, Answers p.2 s (.bytes out) ∧ NegativeFrame .serial addr p.1 s.config.excCrc out

/-- R102: octets from offset 12 on of a Streaming buffer change nothing. -/
def Obligations.StreamingTrailingOctetsAreIgnored : Prop :=
  ∀ (s : State) (raw extra : List Byte), 12 ≤ raw.length → Accepts s (raw ++ extra) →
    exec (.dispatch .streaming (raw ++ extra)) s = exec (.dispatch .streaming raw) s

/-- R278: calling DISPATCH twice with the same bytes gives the same bytes both times, whatever instruction
other than LOAD and SETESA runs in between; and the result is the same in every state with the same ESA,
LOADED, TABLE and parameters. -/
def Obligations.DispatchIsIdempotent : Prop :=
  ∀ (s t u : State) (tr : Transport) (raw : List Byte) (i : Instr) (r : Result),
    exec (.dispatch tr raw) s = .next t → t.results = s.results ++ [r] →
    (∀ es, i ≠ .load es) → (∀ a, i ≠ .setEsa a) → exec i t = .next u →
    Answers (.dispatch tr raw) t r ∧ Answers (.dispatch tr raw) u r ∧
    ∀ s' : State, SamePersistent s s' → Answers (.dispatch tr raw) s' r

/-- R302: through DISPATCH the engine sends no other exception code than 0x02, `EXC_ADDR`, `EXC_CRC`,
`EXC_FUNC` and `EXC_LEN`. -/
def Obligations.DispatchSendsOnlyItsCodes : Prop :=
  ∀ (s : State) (tr : Transport) (raw out : List Byte), Loaded s →
    Answers (.dispatch tr raw) s (.bytes out) →
    out = [] ∨ (∃ e ∈ s.table, ∃ link addr func, PositiveFrame link addr func e.payload out) ∨
      ∃ link addr func, ∃ exc ∈ [0x02, s.config.excAddr, s.config.excCrc, s.config.excFunc, s.config.excLen],
        NegativeFrame link addr func exc out

/-- R277: a valid request whose key is in TABLE is answered with the positive frame that carries the
request's own address and function code, 0x03 or 0x04, and the table's bytes for the key, all of them and
nothing else; BYTECOUNT is 2 x registerCount. -/
def Obligations.PositiveResponseCarriesTheTableEntry : Prop :=
  ∀ (s : State) (a : Byte) (tr : Transport) (raw : List Byte) (r : Request),
    Loaded s → EsaSet s a → Accepts s raw → parse tr raw = .ok r → (validate r a).ok = true →
    let f := requestFields r
    ∀ e ∈ s.table, e.start = f.startRegister → e.count = f.registerCount →
    ∃ out, Answers (.dispatch tr raw) s (.bytes out) ∧
      PositiveFrame (requestLink r) f.slaveAddress f.functionCode e.payload out ∧
      (f.functionCode = 0x03 ∨ f.functionCode = 0x04) ∧
      match tr with
      | .streaming => (byteAt out 8).toNat = 2 * f.registerCount.toNat ∧ out.drop 9 = e.payload
      | .serial => (byteAt out 2).toNat = 2 * f.registerCount.toNat ∧
          (out.drop 3).take (2 * f.registerCount.toNat) = e.payload

/-- R41: the longest responses: 264 octets for Streaming, 260 for Serial. -/
def Obligations.ResponsesAreBounded : Prop :=
  ∀ (s : State) (link : Link) (addr func : Byte) (p out : List Byte),
    Answers (.buildPos link addr func p) s (.bytes out) →
    match link with
    | .streaming _ => out.length = 9 + p.length ∧ out.length ≤ 264
    | .serial => out.length = 5 + p.length ∧ out.length ≤ 260

/-- R333, R46: CRC16, the parsers (on a buffer within `RX_MAX`), VALIDATE, the builders and WIDTHOF work in
every state, the reset state among them, with no set-up, and DECODE and ENCODE wherever their operands are
well-formed. (The statement also runs the response, exception code and tag rows as the builders and the
codec, the model's reading, log entry 7.) -/
def Obligations.UnitOperationsNeedNoSetUp : Prop :=
  ∀ (s : State) (i : Instr), wellFormed i = true →
    (∀ start count, i ≠ .lookup start count) → (∀ es, i ≠ .load es) → (∀ a, i ≠ .setEsa a) →
    (∀ tr raw, i ≠ .dispatch tr raw) → (encode i).format ≠ .streamReq → (encode i).format ≠ .serialReq →
    (∀ b, i = .parseS b ∨ i = .parseR b → Accepts s b) →
    ∃ r, Answers i s r

/-- R143, R154, R235: REGCOUNT of a tag word is half of what WIDTHOF answers, rounded up, and it fails where
WIDTHOF fails, with the same error. A register image is loaded under that count, and read back, for every
tag but STRING(255), whose 128 registers LOAD refuses. -/
def Obligations.RegisterCountFollowsTheWidth : Prop :=
  ∀ (s : State) (tag : Word),
    (∀ w, Answers (.widthOf tag) s (.width w) → regCountOfWord tag = .ok ((w + 1) / 2)) ∧
    (∀ e, Answers (.widthOf tag) s (.error e) → regCountOfWord tag = .error e) ∧
    ∀ t v p n start, tagOfWord tag = some t → image s.config t v = some p → regCountOfWord tag = .ok n →
      s.loaded = false →
      (tag ≠ 0xB0FF → ∃ u, exec (.load [⟨start, BitVec.ofNat 16 n, p⟩]) s = .next u ∧
        Answers (.lookup start (BitVec.ofNat 16 n)) u (.payload (some p))) ∧
      (tag = 0xB0FF → exec (.load [⟨start, BitVec.ofNat 16 n, p⟩]) s = .refused .badEntry)
end

