-- ==== Sys2Proof/Laws/State.lean ====
section
/-! SUPPORT. One lemma per field per update of the state. -/

namespace Sys2Proof.Machine

open Sys2Proof

variable (s : State) (r : Result) (e : Option Byte) (m : Memory) (l : Bool) (q : List Command)

@[simp] theorem deliver_esa : (deliver s r).esa = s.esa := rfl
@[simp] theorem deliver_loaded : (deliver s r).loaded = s.loaded := rfl
@[simp] theorem deliver_table : (deliver s r).table = s.table := rfl
@[simp] theorem deliver_config : (deliver s r).config = s.config := rfl
@[simp] theorem deliver_inbox : (deliver s r).inbox = s.inbox := rfl
@[simp] theorem deliver_results : (deliver s r).results = s.results ++ [r] := rfl

@[simp] theorem setEsa_esa : ({ s with esa := e } : State).esa = e := rfl
@[simp] theorem setEsa_loaded : ({ s with esa := e } : State).loaded = s.loaded := rfl
@[simp] theorem setEsa_table : ({ s with esa := e } : State).table = s.table := rfl
@[simp] theorem setEsa_config : ({ s with esa := e } : State).config = s.config := rfl
@[simp] theorem setEsa_inbox : ({ s with esa := e } : State).inbox = s.inbox := rfl
@[simp] theorem setEsa_results : ({ s with esa := e } : State).results = s.results := rfl

@[simp] theorem setTable_esa : ({ s with table := m, loaded := l } : State).esa = s.esa := rfl
@[simp] theorem setTable_loaded : ({ s with table := m, loaded := l } : State).loaded = l := rfl
@[simp] theorem setTable_table : ({ s with table := m, loaded := l } : State).table = m := rfl
@[simp] theorem setTable_config : ({ s with table := m, loaded := l } : State).config = s.config := rfl
@[simp] theorem setTable_inbox : ({ s with table := m, loaded := l } : State).inbox = s.inbox := rfl
@[simp] theorem setTable_results : ({ s with table := m, loaded := l } : State).results = s.results := rfl

@[simp] theorem setInbox_esa : ({ s with inbox := q } : State).esa = s.esa := rfl
@[simp] theorem setInbox_loaded : ({ s with inbox := q } : State).loaded = s.loaded := rfl
@[simp] theorem setInbox_table : ({ s with inbox := q } : State).table = s.table := rfl
@[simp] theorem setInbox_config : ({ s with inbox := q } : State).config = s.config := rfl
@[simp] theorem setInbox_inbox : ({ s with inbox := q } : State).inbox = q := rfl
@[simp] theorem setInbox_results : ({ s with inbox := q } : State).results = s.results := rfl

end Sys2Proof.Machine
end

