-- ==== Sys2Proof/Laws/Store.lean ====
section
/-! SUPPORT. The register table: reading what was placed, and the canonical form that placing keeps. -/

namespace Sys2Proof.Machine

open Sys2Proof

theorem entryKey_eq_iff (a b : Entry) : entryKey a = entryKey b ↔ a.start = b.start ∧ a.count = b.count := by
  constructor
  · intro h
    have h1 := a.count.isLt
    have h2 := b.count.isLt
    simp only [entryKey] at h
    exact ⟨BitVec.eq_of_toNat_eq (by omega), BitVec.eq_of_toNat_eq (by omega)⟩
  · rintro ⟨h1, h2⟩
    rw [entryKey, entryKey, h1, h2]

/-- What LOAD asks of one entry (R235). -/
theorem entryOk_iff (e : Entry) :
    entryOk e = true ↔ 1 ≤ e.count.toNat ∧ e.count.toNat ≤ 127 ∧ e.payload.length = 2 * e.count.toNat := by
  simp [entryOk]

/-- The start-up list has the keys of TABLE_KEYS in their order, and one payload for each. -/
theorem keyEntries_keys (ks : List TableKey) (values : List (List Byte)) (h : ks.length = values.length) :
    (List.zipWith keyEntry ks values).map (fun e => (e.start, e.count)) = ks.map fun k => (k.start, k.count) := by
  induction ks generalizing values with
  | nil => simp
  | cons k ks ih =>
    cases values with
    | nil => cases h
    | cons v values => simpa [keyEntry] using ih values (by simpa using h)

/-- Every entry of the start-up list is a key with its own payload. -/
theorem mem_keyEntries (ks : List TableKey) (values : List (List Byte)) (e : Entry) :
    e ∈ List.zipWith keyEntry ks values ↔ ∃ kv ∈ ks.zip values, e = keyEntry kv.1 kv.2 := by
  rw [← List.map_uncurry_zip_eq_zipWith, List.mem_map]
  simp only [Function.uncurry, eq_comm]

theorem Memory.wf_iff (m : Memory) :
    Memory.wf m = true ↔ (∀ e ∈ m, entryOk e = true) ∧ m.Pairwise fun a b => entryKey a < entryKey b := by
  simp [Memory.wf, List.all_eq_true]

@[simp] theorem Memory.wf_nil : Memory.wf [] = true := by decide

theorem Memory.wf_cons (e : Entry) (m : Memory) :
    Memory.wf (e :: m) = true ↔
      entryOk e = true ∧ (∀ x ∈ m, entryKey e < entryKey x) ∧ Memory.wf m = true := by
  simp only [Memory.wf_iff, List.mem_cons, forall_eq_or_imp, List.pairwise_cons]
  tauto

theorem mem_tableInsert (e x : Entry) (m : Memory) (h : x ∈ tableInsert e m) : x = e ∨ x ∈ m := by
  induction m with
  | nil => simpa [tableInsert] using h
  | cons y m ih =>
    simp only [tableInsert] at h
    split at h
    · simpa using h
    · split at h
      · rcases List.mem_cons.1 h with h | h
        · exact .inl h
        · exact .inr (List.mem_cons_of_mem _ h)
      · rcases List.mem_cons.1 h with h | h
        · exact .inr (by simp [h])
        · rcases ih h with h | h
          · exact .inl h
          · exact .inr (List.mem_cons_of_mem _ h)

/-- Placing a well-formed entry keeps the canonical form. -/
theorem Memory.wf_tableInsert (e : Entry) (m : Memory) (he : entryOk e = true) (hm : Memory.wf m = true) :
    Memory.wf (tableInsert e m) = true := by
  induction m with
  | nil => simpa [tableInsert, Memory.wf_cons] using he
  | cons y m ih =>
    obtain ⟨hy, hlt, hm'⟩ := (Memory.wf_cons y m).1 hm
    simp only [tableInsert]
    split
    · rename_i h
      refine (Memory.wf_cons _ _).2 ⟨he, fun x hx => ?_, hm⟩
      rcases List.mem_cons.1 hx with rfl | hx
      · exact h
      · exact h.trans (hlt x hx)
    · split
      · rename_i h
        exact (Memory.wf_cons _ _).2 ⟨he, fun x hx => lt_of_eq_of_lt h (hlt x hx), hm'⟩
      · refine (Memory.wf_cons _ _).2 ⟨hy, fun x hx => ?_, ih hm'⟩
        rcases mem_tableInsert e x m hx with rfl | hx
        · omega
        · exact hlt x hx

/-- The table of well-formed entries is in canonical form. -/
theorem Memory.wf_tableOf (es : List Entry) (h : ∀ e ∈ es, entryOk e = true) :
    Memory.wf (tableOf es) = true := by
  induction es with
  | nil => simp [tableOf]
  | cons e es ih =>
    exact Memory.wf_tableInsert e _ (h e (by simp)) (ih fun x hx => h x (List.mem_cons_of_mem _ hx))

/-- Reading the key just placed gives its payload. -/
theorem tableRead_tableInsert_self (e : Entry) (m : Memory) :
    tableRead (tableInsert e m) e.start e.count = some e.payload := by
  induction m with
  | nil => simp [tableInsert, tableRead]
  | cons y m ih =>
    simp only [tableInsert]
    split
    · simp [tableRead]
    · split
      · simp [tableRead]
      · rename_i h1 h2
        have hk : ¬ (y.start = e.start ∧ y.count = e.count) := fun h =>
          h2 ((entryKey_eq_iff e y).2 ⟨h.1.symm, h.2.symm⟩)
        have hb : (y.start == e.start && y.count == e.count) = false := by
          simpa [Bool.and_eq_false_iff] using hk
        simpa [tableRead, List.find?_cons, hb] using ih

/-- Placing an entry leaves every other key alone. -/
theorem tableRead_tableInsert_other (e : Entry) (m : Memory) (start count : Word)
    (h : ¬ (e.start = start ∧ e.count = count)) :
    tableRead (tableInsert e m) start count = tableRead m start count := by
  have hb : (e.start == start && e.count == count) = false := by
    simpa [Bool.and_eq_false_iff] using h
  induction m with
  | nil => simp [tableInsert, tableRead, hb]
  | cons y m ih =>
    simp only [tableInsert]
    split
    · simp [tableRead, List.find?_cons, hb]
    · split
      · rename_i h1 h2
        obtain ⟨hs, hc⟩ := (entryKey_eq_iff e y).1 h2
        have hb' : (y.start == start && y.count == count) = false := by rw [← hs, ← hc]; exact hb
        simp [tableRead, hb, hb']
      · cases hy : (y.start == start && y.count == count)
        · simpa [tableRead, List.find?_cons, hy] using ih
        · simp [tableRead, hy]

/-- A key of no entry is not in the table. -/
theorem tableRead_tableOf_none (es : List Entry) (start count : Word)
    (h : ∀ e ∈ es, ¬ (e.start = start ∧ e.count = count)) : tableRead (tableOf es) start count = none := by
  induction es with
  | nil => rfl
  | cons e es ih =>
    rw [tableOf, List.foldr_cons, tableRead_tableInsert_other _ _ _ _ (h e (by simp))]
    exact ih fun x hx => h x (List.mem_cons_of_mem _ hx)

/-- With no key twice, the table holds every entry's payload at its key. -/
theorem tableRead_tableOf_mem (es : List Entry) (hn : (es.map fun e => (e.start, e.count)).Nodup)
    (e : Entry) (h : e ∈ es) : tableRead (tableOf es) e.start e.count = some e.payload := by
  induction es with
  | nil => simp at h
  | cons x es ih =>
    rw [List.map_cons, List.nodup_cons] at hn
    rw [tableOf, List.foldr_cons]
    rcases List.mem_cons.1 h with rfl | h
    · exact tableRead_tableInsert_self _ _
    · rw [tableRead_tableInsert_other]
      · exact ih hn.2 h
      · rintro ⟨h1, h2⟩
        exact hn.1 (List.mem_map.2 ⟨e, h, by rw [h1, h2]⟩)

/-- What a read finds is the payload of an object of the table. -/
theorem tableRead_some (m : Memory) (start count : Word) (p : List Byte)
    (h : tableRead m start count = some p) :
    ∃ e ∈ m, e.start = start ∧ e.count = count ∧ e.payload = p := by
  simp only [tableRead, Option.map_eq_some_iff] at h
  obtain ⟨e, he, hp⟩ := h
  have h1 := List.find?_some he
  simp only [Bool.and_eq_true, beq_iff_eq] at h1
  exact ⟨e, List.mem_of_find?_eq_some he, h1.1, h1.2, hp⟩

/-- In a table in canonical form a read finds every object. -/
theorem tableRead_of_mem (m : Memory) (hm : Memory.wf m = true) (e : Entry) (h : e ∈ m) :
    tableRead m e.start e.count = some e.payload := by
  induction m with
  | nil => simp at h
  | cons y m ih =>
    obtain ⟨-, hlt, hm'⟩ := (Memory.wf_cons y m).1 hm
    rcases List.mem_cons.1 h with rfl | h
    · simp [tableRead]
    · have hk : ¬ (y.start = e.start ∧ y.count = e.count) := fun hh =>
        absurd ((entryKey_eq_iff y e).2 hh) (Nat.ne_of_lt (hlt e h))
      have hb : (y.start == e.start && y.count == e.count) = false := by
        simpa [Bool.and_eq_false_iff] using hk
      simpa [tableRead, List.find?_cons, hb] using ih hm' h

/-- The payload of a well-formed table has 2 x count bytes, at most 254 (R232, R258). -/
theorem tableRead_length (m : Memory) (hm : Memory.wf m = true) (start count : Word) (p : List Byte)
    (h : tableRead m start count = some p) :
    p.length = 2 * count.toNat ∧ 1 ≤ count.toNat ∧ count.toNat ≤ 127 := by
  obtain ⟨e, he, -, rfl, rfl⟩ := tableRead_some m start count p h
  have := ((Memory.wf_iff m).1 hm).1 e he
  simp only [entryOk, decide_eq_true_eq] at this
  exact ⟨this.2.2, this.1, this.2.1⟩

/-- LOAD's loop refuses nothing exactly when every entry is well-formed and no key stands twice. -/
theorem loadRefusal_none_iff (all es : List Entry) :
    loadRefusal all es = none ↔
      ∀ e ∈ es, entryOk e = true ∧ all.countP (sameKey e) ≤ 1 := by
  induction es with
  | nil => simp [loadRefusal]
  | cons e es ih =>
    simp only [loadRefusal, List.mem_cons, forall_eq_or_imp]
    split
    · rename_i h; simp [h]
    · split
      · rename_i h1 h2; simp; omega
      · rename_i h1 h2
        rw [ih]
        simp only [Bool.not_eq_false] at h1
        constructor
        · exact fun h => ⟨⟨h1, by omega⟩, h⟩
        · exact fun h => h.2

end Sys2Proof.Machine
end

