-- ==== Sys2Proof/Laws/Ops.lean ====
section
/-! SUPPORT. What each shared operation can do, said once: if it answers a next state, one of these
cases holds. -/

namespace Sys2Proof.Machine

open Sys2Proof

theorem answer_next {r : Result} {s t : State} (h : answer r s = .next t) : t = deliver s r := by
  simp only [answer, Host.Outcome.next.injEq] at h
  exact h.symm

theorem answerPositive_of_le {link : Link} {addr func : Byte} {p : List Byte} {s : State}
    (h : p.length ≤ 255) :
    answerPositive link addr func p s =
      answer (.bytes (responseBytes (.positive link addr func p))) s := by
  simp [answerPositive, buildPositive, Nat.not_lt.2 h]

theorem answerPositive_next {link : Link} {addr func : Byte} {p : List Byte} {s t : State}
    (h : answerPositive link addr func p s = .next t) :
    p.length ≤ 255 ∧ t = deliver s (.bytes (responseBytes (.positive link addr func p))) := by
  by_cases hp : p.length ≤ 255
  · rw [answerPositive_of_le hp] at h
    exact ⟨hp, answer_next h⟩
  · simp [answerPositive, buildPositive, Nat.lt_of_not_le hp] at h

theorem runCodec_next {tag : Word} {u : TagUse} {s t : State} (h : runCodec tag u s = .next t) :
    (tagOfWord tag = none ∧ t = deliver s (.error (.invalidDataType tag))) ∨
    ∃ k, tagOfWord tag = some k ∧
      ((u = .widthOf ∧ t = deliver s (.width (tagWidth k))) ∨
       (∃ b, u = .decode b ∧ decodeTakes k b.length = true ∧
          t = deliver s (.value (decodeValue s.config k b))) ∨
       (∃ v b, u = .encode v ∧ encodeValue s.config k v = some b ∧ t = deliver s (.bytes b))) := by
  simp only [runCodec] at h
  split at h
  · rename_i hk
    exact .inl ⟨hk, answer_next h⟩
  · rename_i k hk
    refine .inr ⟨k, hk, ?_⟩
    split at h
    · exact .inl ⟨rfl, answer_next h⟩
    · split at h
      · rename_i hb
        exact .inr (.inl ⟨_, rfl, hb, answer_next h⟩)
      · cases h
    · split at h
      · rename_i hb
        exact .inr (.inr ⟨_, _, rfl, hb, answer_next h⟩)
      · cases h

theorem runParser_next {tr : Transport} {b : List Byte} {s t : State} (h : runParser tr b s = .next t) :
    tooLong s.config b.length = false ∧
      ((∃ r, parse tr b = .ok r ∧ t = deliver s (.request r)) ∨
       (∃ e, parse tr b = .error e ∧ t = deliver s (.error e))) := by
  simp only [runParser] at h
  split at h
  · cases h
  · rename_i hl
    refine ⟨by simpa using hl, ?_⟩
    split at h
    · rename_i r hr
      exact .inl ⟨r, hr, answer_next h⟩
    · rename_i e he
      exact .inr ⟨e, he, answer_next h⟩

theorem tableLoad_next {es : List Entry} {s t : State} (h : tableLoad es s = .next t) :
    s.loaded = false ∧ loadRefusal es es = none ∧
      t = deliver { s with table := tableOf es, loaded := true } .done := by
  simp only [tableLoad] at h
  split at h
  · cases h
  · rename_i hl
    split at h
    · cases h
    · rename_i hr
      exact ⟨by simpa using hl, hr, answer_next h⟩

/-- REGCOUNT fails exactly where the tag word spells no tag (R143). -/
theorem regCountOfWord_ok_iff (tag : Word) (n : Nat) :
    regCountOfWord tag = .ok n ↔ ∃ t, tagOfWord tag = some t ∧ regCount t = n := by
  simp only [regCountOfWord]
  split <;> simp_all

theorem serveValid_next {r : Request} {s t : State} (h : serveValid r s = .next t) :
    (∃ p, tableRead s.table (requestFields r).startRegister (requestFields r).registerCount = some p ∧
      p.length ≤ 255 ∧
      t = deliver s (.bytes (responseBytes (.positive (requestLink r) (requestFields r).slaveAddress
        (requestFields r).functionCode p)))) ∨
    (tableRead s.table (requestFields r).startRegister (requestFields r).registerCount = none ∧
      t = deliver s (.bytes (buildNegative (requestLink r) (requestFields r).slaveAddress
        (requestFields r).functionCode excMiss))) := by
  simp only [serveValid] at h
  split at h
  · rename_i p hp
    obtain ⟨hl, ht⟩ := answerPositive_next h
    exact .inl ⟨p, hp, hl, ht⟩
  · rename_i hp
    exact .inr ⟨hp, answer_next h⟩

/-- The preconditions of DISPATCH (R279), in the order the model tests them (log entry 19). -/
theorem serve_refused {tr : Transport} {raw : List Byte} {s : State} :
    (s.loaded = false → serve tr raw s = .refused .notLoaded) ∧
    (s.loaded = true → s.esa = none → serve tr raw s = .refused .esaUnset) ∧
    (∀ a, s.loaded = true → s.esa = some a → tooLong s.config raw.length = true →
      serve tr raw s = .refused .bufferTooLong) := by
  refine ⟨fun h => ?_, fun h he => ?_, fun a h he ht => ?_⟩ <;> simp [serve, *]

theorem serve_next {tr : Transport} {raw : List Byte} {s t : State} (h : serve tr raw s = .next t) :
    s.loaded = true ∧ ∃ expected, s.esa = some expected ∧ tooLong s.config raw.length = false ∧
      ((∃ e, parse tr raw = .error e ∧ t = deliver s (.bytes [])) ∨
       ∃ r, parse tr raw = .ok r ∧ serveRequest r expected s = .next t) := by
  simp only [serve] at h
  split at h
  · cases h
  · rename_i hl
    split at h
    · cases h
    · rename_i expected he
      split at h
      · cases h
      · rename_i hx
        refine ⟨by simpa using hl, expected, he, by simpa using hx, ?_⟩
        split at h
        · rename_i e hp
          exact .inl ⟨e, hp, answer_next h⟩
        · rename_i r hp
          exact .inr ⟨r, hp, h⟩

theorem serveRequest_next {r : Request} {expected : Byte} {s t : State}
    (h : serveRequest r expected s = .next t) :
    ((validate r expected).ok = true ∧ serveValid r s = .next t) ∨
    ((validate r expected).ok = false ∧
      t = deliver s (.bytes (buildNegative (requestLink r) (requestFields r).slaveAddress
        (requestFields r).functionCode (excSel s.config (validate r expected).reasons)))) := by
  simp only [serveRequest] at h
  split at h
  · rename_i hv
    exact .inl ⟨hv, h⟩
  · rename_i hv
    exact .inr ⟨by simpa using hv, answer_next h⟩

/-- DISPATCH that answers delivers bytes and changes nothing else. -/
theorem serve_delivers {tr : Transport} {raw : List Byte} {s t : State} (h : serve tr raw s = .next t) :
    ∃ b, t = deliver s (.bytes b) := by
  obtain ⟨-, expected, -, -, h⟩ := serve_next h
  rcases h with ⟨e, -, rfl⟩ | ⟨r, -, h⟩
  · exact ⟨_, rfl⟩
  · rcases serveRequest_next h with ⟨-, h⟩ | ⟨-, rfl⟩
    · rcases serveValid_next h with ⟨p, -, -, rfl⟩ | ⟨-, rfl⟩ <;> exact ⟨_, rfl⟩
    · exact ⟨_, rfl⟩

theorem step_cons {s : State} {c : Command} {rest : List Command} (h : s.inbox = c :: rest) :
    step s = runCommand c { s with inbox := rest } := by
  simp [step, h]

theorem runCommand_of_decode {c : Command} {i : Instr} {s : State} (h : decode c = .ok i) :
    runCommand c s = exec i s := by
  simp [runCommand, h]

end Sys2Proof.Machine
end

