-- ==== Sys2Proof/Laws/Exec.lean ====
section
/-! SUPPORT. Everything an instruction, and a step, can do when it answers a next state: deliver one
result; or, LOAD and SETESA alone, write persistent state and deliver `done`. -/

namespace Sys2Proof.Machine

open Sys2Proof

/-- What a next state of exec is. -/
theorem exec_next_cases {i : Instr} {s t : State} (h : exec i s = .next t) :
    (∃ r, t = deliver s r ∧ (∀ es, i ≠ .load es) ∧ ∀ a, i ≠ .setEsa a) ∨
    (∃ es, i = .load es ∧ s.loaded = false ∧ loadRefusal es es = none ∧
      t = deliver { s with table := tableOf es, loaded := true } .done) ∨
    (∃ a, i = .setEsa a ∧ t = deliver { s with esa := some a } .done) := by
  have pos : ∀ {l a f p}, answerPositive l a f p s = .next t → ∃ r, t = deliver s r :=
    fun h => ⟨_, (answerPositive_next h).2⟩
  have cod : ∀ {w u}, runCodec w u s = .next t → ∃ r, t = deliver s r := by
    intro w u h
    rcases runCodec_next h with ⟨-, h⟩ | ⟨k, -, ⟨-, h⟩ | ⟨b, -, -, h⟩ | ⟨v, b, -, -, h⟩⟩ <;> exact ⟨_, h⟩
  have par : ∀ {w u}, runParser w u s = .next t → ∃ r, t = deliver s r := by
    intro w u h
    rcases runParser_next h with ⟨-, ⟨r, -, h⟩ | ⟨r, -, h⟩⟩ <;> exact ⟨_, h⟩
  have srv : ∀ {w u}, serve w u s = .next t → ∃ r, t = deliver s r := by
    intro w u h
    obtain ⟨b, h⟩ := serve_delivers h
    exact ⟨_, h⟩
  have ans : ∀ {r}, answer r s = .next t → ∃ r, t = deliver s r := fun h => ⟨_, answer_next h⟩
  cases i
  case load es =>
    obtain ⟨h1, h2, h3⟩ := tableLoad_next (h : tableLoad es s = _)
    exact .inr (.inl ⟨es, rfl, h1, h2, h3⟩)
  case setEsa a => exact .inr (.inr ⟨a, rfl, answer_next h⟩)
  case lookup a b =>
    left
    simp only [exec, execLookup] at h
    split at h
    · cases h
    · obtain ⟨r, hr⟩ := ans h
      exact ⟨r, hr, by simp, by simp⟩
  all_goals
    left
    simp only [exec, execStreamRead03, execStreamRead04, execSerialRead03, execSerialRead04,
      execStreamPos, execStreamNeg, execSerialPos, execSerialNeg, execExc01, execExc02, execExc03,
      execExc04, execExc05, execExc06, execExc07, execExc08, execExc0A, execExc0B, execTagBool,
      execTagInt8, execTagUint8, execTagInt16, execTagUint16, execTagInt32, execTagUint32, execTagInt64,
      execTagUint64, execTagReal32, execTagReal64, execTagString, execCrc16, execParseS, execParseR,
      execValidate, execWidthOf, execDecode, execEncode, execBuildPos, execBuildNeg, execDispatch] at h
    have hh : ∃ r, t = deliver s r := by
      first | exact ans h | exact pos h | exact cod h | exact par h | exact srv h
    obtain ⟨r, hr⟩ := hh
    exact ⟨r, hr, by simp, by simp⟩

/-- What a next state of step is: the same state, when no command waits, or that of the command taken
from the inbox. -/
theorem step_next_cases {s t : State} (h : step s = .next t) :
    (s.inbox = [] ∧ t = s) ∨
    ∃ c rest i, s.inbox = c :: rest ∧ decode c = .ok i ∧ exec i { s with inbox := rest } = .next t := by
  cases hc : s.inbox with
  | nil =>
    simp only [step, hc, Host.Outcome.next.injEq] at h
    exact .inl ⟨rfl, h.symm⟩
  | cons c rest =>
    rw [step_cons hc, runCommand] at h
    split at h
    · rename_i i hi
      exact .inr ⟨c, rest, i, rfl, hi, h⟩
    · rename_i e _
      cases e <;> simp [rejectCommand] at h

end Sys2Proof.Machine
end

