-- ==== Sys2Proof/Laws/Words.lean ====
section
/-! SUPPORT. Fields and byte sequences: writing a field and reading it back. -/

namespace Sys2Proof.Machine

open Sys2Proof

@[simp] theorem wordOf_hiByte_loByte (v : Word) : wordOf (hiByte v) (loByte v) = v := by
  apply BitVec.eq_of_toNat_eq
  simp only [wordOf, hiByte, loByte, BitVec.toNat_append, BitVec.extractLsb'_toNat]
  have h := v.isLt
  rw [← Nat.shiftLeft_add_eq_or_of_lt (Nat.mod_lt _ (by decide)), Nat.shiftLeft_eq, Nat.shiftRight_eq_div_pow]
  simp only [Nat.shiftRight_zero]
  omega

theorem wordOf_toNat (hi lo : Byte) : (wordOf hi lo).toNat = hi.toNat * 256 + lo.toNat := by
  simp only [wordOf, BitVec.toNat_append]
  rw [← Nat.shiftLeft_add_eq_or_of_lt lo.isLt, Nat.shiftLeft_eq]

theorem enc16_toNat (v : Word) : (hiByte v).toNat * 256 + (loByte v).toNat = v.toNat := by
  rw [← wordOf_toNat, wordOf_hiByte_loByte]

@[simp] theorem hiByte_wordOf (hi lo : Byte) : hiByte (wordOf hi lo) = hi := by
  apply BitVec.eq_of_toNat_eq
  have h := enc16_toNat (wordOf hi lo)
  rw [wordOf_toNat] at h
  have := (loByte (wordOf hi lo)).isLt
  have := lo.isLt
  omega

@[simp] theorem loByte_wordOf (hi lo : Byte) : loByte (wordOf hi lo) = lo := by
  apply BitVec.eq_of_toNat_eq
  have h := enc16_toNat (wordOf hi lo)
  rw [wordOf_toNat, hiByte_wordOf] at h
  omega

@[simp] theorem enc16_length (v : Word) : (enc16 v).length = 2 := rfl

@[simp] theorem enc16_wordOf (hi lo : Byte) : enc16 (wordOf hi lo) = [hi, lo] := by
  simp [enc16]

@[simp] theorem beBytes_length (n v : Nat) : (beBytes n v).length = n := by
  induction n with
  | zero => rfl
  | succ n ih => simp [beBytes, ih]

theorem beNat_foldl (b : List Byte) (a : Nat) :
    b.foldl (fun acc x => acc * 256 + x.toNat) a = a * 256 ^ b.length + beNat b := by
  induction b generalizing a with
  | nil => simp [beNat]
  | cons x b ih =>
    have h := ih x.toNat
    simp only [List.foldl_cons, List.length_cons, beNat, ih (a * 256 + x.toNat)]
    simp only [beNat] at h
    rw [show (0 * 256 + x.toNat) = x.toNat by omega, h]
    ring

theorem beNat_cons (x : Byte) (b : List Byte) : beNat (x :: b) = x.toNat * 256 ^ b.length + beNat b := by
  conv_lhs => unfold beNat
  rw [List.foldl_cons, beNat_foldl]
  simp

theorem beNat_lt (b : List Byte) : beNat b < 256 ^ b.length := by
  induction b with
  | nil => simp [beNat]
  | cons x b ih =>
    have hx := x.isLt
    rw [beNat_cons, List.length_cons, Nat.pow_succ]
    have : x.toNat * 256 ^ b.length ≤ 255 * 256 ^ b.length := Nat.mul_le_mul_right _ (by omega)
    omega

/-- Writing a number in n bytes and reading it back gives it modulo 256^n. -/
theorem beNat_beBytes_mod (n v : Nat) : beNat (beBytes n v) = v % 256 ^ n := by
  induction n with
  | zero => simp [beBytes, beNat, Nat.mod_one]
  | succ n ih =>
    rw [beBytes, beNat_cons, beBytes_length, ih, BitVec.toNat_ofNat,
      show (2 : Nat) ^ 8 = 256 by decide, Nat.mod_pow_succ]
    ring

/-- `encN` and `beN` are inverse on N-byte numbers (R15). -/
theorem beNat_beBytes (n v : Nat) (h : v < 256 ^ n) : beNat (beBytes n v) = v := by
  rw [beNat_beBytes_mod, Nat.mod_eq_of_lt h]

theorem beNat_inj (a b : List Byte) (hl : a.length = b.length) (h : beNat a = beNat b) : a = b := by
  induction a generalizing b with
  | nil => cases b with
    | nil => rfl
    | cons y b => simp at hl
  | cons x a ih => cases b with
    | nil => simp at hl
    | cons y b =>
      have hl' : a.length = b.length := by simpa using hl
      rw [beNat_cons, beNat_cons, hl'] at h
      have ha := beNat_lt a
      have hb := beNat_lt b
      rw [hl'] at ha
      have hd : (x.toNat * 256 ^ b.length + beNat a) / 256 ^ b.length =
          (y.toNat * 256 ^ b.length + beNat b) / 256 ^ b.length := by rw [h]
      rw [Nat.mul_comm, Nat.mul_add_div (by positivity), Nat.div_eq_of_lt ha,
        Nat.mul_comm, Nat.mul_add_div (by positivity), Nat.div_eq_of_lt hb] at hd
      have hx : x = y := BitVec.eq_of_toNat_eq (by omega)
      subst hx
      rw [ih b hl' (by omega)]

/-- The other direction: reading an N-byte sequence and writing it back gives the sequence. -/
theorem beBytes_beNat (b : List Byte) : beBytes b.length (beNat b) = b :=
  beNat_inj _ _ (by simp) (beNat_beBytes _ _ (beNat_lt b))

theorem tagKind_tagWord (k : BitVec 4) (n : BitVec 12) : tagKind (tagWord k n) = k.toNat := by
  unfold tagKind tagWord
  rw [BitVec.extractLsb'_toNat, BitVec.toNat_append]
  rw [← Nat.shiftLeft_add_eq_or_of_lt n.isLt, Nat.shiftLeft_eq, Nat.shiftRight_eq_div_pow]
  have := k.isLt
  have := n.isLt
  omega

theorem tagLength_tagWord (k : BitVec 4) (n : BitVec 12) : tagLength (tagWord k n) = n.toNat := by
  unfold tagLength tagWord
  rw [BitVec.extractLsb'_toNat, BitVec.toNat_append]
  rw [← Nat.shiftLeft_add_eq_or_of_lt n.isLt, Nat.shiftLeft_eq, Nat.shiftRight_zero]
  have := n.isLt
  omega

theorem tagKind_eq (tag : Word) : tagKind tag = tag.toNat / 4096 := by
  simp only [tagKind, BitVec.extractLsb'_toNat, Nat.shiftRight_eq_div_pow]
  have := tag.isLt
  omega

theorem tagLength_eq (tag : Word) : tagLength tag = tag.toNat % 4096 := by
  simp only [tagLength, BitVec.extractLsb'_toNat, Nat.shiftRight_zero]

end Sys2Proof.Machine
end

