-- ==== Sys2Proof/Tests/Slice0.lean ====
section
/-! SUPPORT. Tests of the model, and a witness for the hypotheses of every statement. Expected results are
the vectors of `95_test_vectors.md`, named V-…, or octets written out from the encodings of
`30_encoding.md`. -/

set_option maxRecDepth 20000

namespace Sys2Proof.Tests

open Sys2Proof Sys2Proof.Machine

/-- The result a step delivered last. -/
def lastResult : Host.Outcome State Fault Refusal → Option Result
  | .next s => s.results.getLast?
  | _ => none

/-- The bytes a step delivered last. -/
def lastBytes : Host.Outcome State Fault Refusal → Option (List Byte)
  | .next s => match s.results.getLast? with
    | some (.bytes b) => some b
    | _ => none
  | _ => none

/-- The refusal a step ended in. -/
def refusal : Host.Outcome State Fault Refusal → Option Refusal
  | .refused r => some r
  | _ => none

/-- The fault a step ended in. -/
def fault : Host.Outcome State Fault Refusal → Option Fault
  | .fault f => some f
  | _ => none

/-- The state a step led to. -/
def stateOf : Host.Outcome State Fault Refusal → Option State
  | .next s => some s
  | _ => none

/-- Four rows of the illustrative table of `95_test_vectors.md` section 2. -/
def rows : List Entry :=
  [⟨1, 1, [0x00, 0xDE]⟩, ⟨0, 1, [0x00, 0xFE]⟩, ⟨10, 2, [0xDE, 0xAD, 0xBE, 0xEF]⟩,
   ⟨26, 2, [0x3F, 0x80, 0x00, 0x00]⟩]

/-- An engine that is set up: those rows loaded, ESA = 0x01, the default parameters. -/
def served : State := { State.reset with esa := some 0x01, loaded := true, table := tableOf rows }

/-- The same with another expected address. -/
def servedAt (a : Byte) : State := { served with esa := some a }

/-- Reset with a finite `RX_MAX`. -/
def bounded (s : State) : State := { s with config := { s.config with rxMax := some 16 } }

/-- The same with `STR_PAD` = TRAILING. -/
def trailing (s : State) : State := { s with config := { s.config with strPad := .trailing } }

/-- The Streaming request of V-SRC-2b and the Serial request of V-CRC-7. -/
def streamFrame1 : List Byte := [0x00, 0x01, 0x00, 0x00, 0x00, 0x06, 0x01, 0x03, 0x00, 0x01, 0x00, 0x01]
def serialFrame1 : List Byte := [0x01, 0x03, 0x00, 0x01, 0x00, 0x01, 0xCA, 0xD5]

/-- The record PARSE_R makes of the latter. -/
def serialRequest1 : Request := .serial 0xCAD5 ⟨0x01, 0x03, 1, 1, serialFrame1⟩

/-! WellFormed: for each check a term it refuses. -/

theorem test_wf_streamPos_byteCount : wellFormed (.streamPos 1 5 0x01 0x03 3 [0x00, 0xDE]) = false := by decide
theorem test_wf_streamPos_len : wellFormed (.streamPos 1 3 0x01 0x03 2 [0x00, 0xDE]) = false := by decide
theorem test_wf_serialPos_crc : wellFormed (.serialPos 0x01 0x03 2 [0x00, 0xDE] 0x381C) = false := by decide
theorem test_wf_serialPos_byteCount : wellFormed (.serialPos 0x01 0x03 1 [0x00, 0xDE] 0x1C38) = false := by decide
theorem test_wf_serialNeg_crc : wellFormed (.serialNeg 0x01 3 0x02 0xC0F1) = false := by decide
theorem test_wf_decode_length :
    wellFormed (.decode 0x2000 [0x00, 0xDE]) = false ∧ wellFormed (.tagUint8 (.decode [0x00, 0xDE])) = false := by
  decide
theorem test_wf_encode_range :
    wellFormed (.encode 0x2000 (.int 256)) = false ∧ wellFormed (.tagInt8 (.encode (.int (-129)))) = false := by
  decide
theorem test_wf_encode_kind : wellFormed (.encode 0x2000 (.bool true)) = false := by decide
theorem test_wf_string_length : wellFormed (.tagString 3 (.encode (.string [0x41, 0x42]))) = false := by decide
theorem test_wf_validate : wellFormed (.validate (.serial 0xCAD6 ⟨0x01, 0x03, 1, 1, serialFrame1⟩) 0x01) = false := by
  decide
theorem test_wf_load_entry :
    wellFormed (.load [⟨1, 1, [0xDE]⟩]) = false ∧ wellFormed (.load [⟨1, 0, []⟩]) = false := by decide
theorem test_wf_load_duplicate :
    wellFormed (.load [⟨1, 1, [0x00, 0xDE]⟩, ⟨1, 1, [0x00, 0xDF]⟩]) = false := by decide
theorem test_wf_buildPos_payload : wellFormed (.buildPos .serial 0x01 0x03 (rep 0 256)) = false := by decide
theorem test_wf_accepts :
    wellFormed (.streamPos 1 5 0x01 0x03 2 [0x00, 0xDE]) = true ∧
    wellFormed (.serialPos 0x01 0x03 2 [0x00, 0xDE] 0x1C38) = true ∧
    wellFormed (.validate serialRequest1 0x01) = true ∧ wellFormed (.load rows) = true := by decide

/-! Decoding: words written out from the encodings. -/

/-- R91: TID, PID = 0, LEN = 6, ADDR, FUNC, START, COUNT, then ignored octets (R102). -/
theorem test_decode_streamReq :
    decode ⟨.streamReq, [0x12, 0x34, 0, 0, 0, 6, 0x11, 0x03, 0x00, 0x1A, 0x00, 0x02, 0xFF]⟩ =
      .ok (.streamRead03 0x1234 0x11 26 2 [0xFF]) ∧
    decodeTableWord 96 0x1234000000061104001A0002 = some (.streamRead04 0x1234 0x11 26 2 []) ∧
    decode ⟨.streamReq, [0, 1, 0, 1, 0, 6, 1, 3, 0, 1, 0, 1]⟩ =
      .ok (.dispatch .streaming [0, 1, 0, 1, 0, 6, 1, 3, 0, 1, 0, 1]) := by decide

/-- R92: ADDR, FUNC, START, COUNT, CRC16. -/
theorem test_decode_serialReq :
    decodeTableWord 64 0x010300010002CAD5 = some (.serialRead03 0x01 1 2 0xCAD5) ∧
    decode ⟨.serialReq, [0x01, 0x04, 0x00, 0x01, 0x00, 0x01, 0x0A, 0x60]⟩ = .ok (.serialRead04 0x01 1 1 0x0A60) ∧
    decode ⟨.serialReq, [0x01, 0x03, 0x00]⟩ = .ok (.dispatch .serial [0x01, 0x03, 0x00]) := by decide

/-- R93, R94, R95, R96. -/
theorem test_decode_responses :
    decode ⟨.streamPos, [0x00, 0x07, 0, 0, 0x00, 0x05, 0x01, 0x03, 0x02, 0x00, 0xDE]⟩ =
      .ok (.streamPos 7 5 0x01 0x03 2 [0x00, 0xDE]) ∧
    decode ⟨.streamNeg, [0x00, 0x07, 0, 0, 0x00, 0x03, 0x01, 0x84, 0x02]⟩ = .ok (.streamNeg 7 0x01 4 0x02) ∧
    decode ⟨.serialPos, [0x01, 0x03, 0x02, 0x00, 0xDE, 0x1C, 0x38]⟩ =
      .ok (.serialPos 0x01 0x03 2 [0x00, 0xDE] 0x1C38) ∧
    decode ⟨.serialNeg, [0x01, 0x84, 0x02, 0xC1, 0xC2]⟩ = .ok (.serialNeg 0x01 4 0x02 0xC1C2) := by decide

/-- R99: the ten codes, each with a Serial frame. -/
theorem test_decode_errCode :
    (∀ p ∈ [((0x01 : Byte), Instr.exc01 .serial 1 3), (0x02, .exc02 .serial 1 3), (0x03, .exc03 .serial 1 3),
        (0x04, .exc04 .serial 1 3), (0x05, .exc05 .serial 1 3), (0x06, .exc06 .serial 1 3),
        (0x07, .exc07 .serial 1 3), (0x08, .exc08 .serial 1 3), (0x0A, .exc0A .serial 1 3),
        (0x0B, .exc0B .serial 1 3)],
      decode ⟨.errCode8, [p.1, 1, 1, 3]⟩ = .ok p.2) ∧
    decode ⟨.errCode8, [0x09, 0, 0x12, 0x34, 1, 3]⟩ = .ok (.buildNeg (.streaming 0x1234) 1 3 0x09) := by decide

/-- R103: kind in bits 15 to 12, n in bits 11 to 0. -/
theorem test_decode_tags :
    (∀ p ∈ [(0x0000, Instr.tagBool .widthOf), (0x1000, .tagInt8 .widthOf), (0x2000, .tagUint8 .widthOf),
        (0x3000, .tagInt16 .widthOf), (0x4000, .tagUint16 .widthOf), (0x5000, .tagInt32 .widthOf),
        (0x6000, .tagUint32 .widthOf), (0x7000, .tagInt64 .widthOf), (0x8000, .tagUint64 .widthOf),
        (0x9000, .tagReal32 .widthOf), (0xA000, .tagReal64 .widthOf), (0xB00C, .tagString 12 .widthOf)],
      decodeTableWord 16 p.1 = some p.2) ∧
    decodeTableWord 16 0xC000 = some (.widthOf 0xC000) ∧ decodeTableWord 16 0x2001 = some (.widthOf 0x2001) := by
  decide

/-- R104, R105: OPSEL 0x0 to 0x6. -/
theorem test_decode_opsel_0_6 :
    decode ⟨.opSel4, [0x0, 0xAA]⟩ = .ok (.crc16 [0xAA]) ∧
    decode ⟨.opSel4, [0x1, 0xAA]⟩ = .ok (.parseS [0xAA]) ∧
    decode ⟨.opSel4, [0x2, 0xAA]⟩ = .ok (.parseR [0xAA]) ∧
    decode ⟨.opSel4, 0x3 :: 1 :: 0xCA :: 0xD5 :: 1 :: 3 :: 0 :: 1 :: 0 :: 1 :: 0x11 :: serialFrame1⟩ =
      .ok (.validate serialRequest1 0x11) ∧
    decode ⟨.opSel4, [0x4, 0x20, 0x00]⟩ = .ok (.widthOf 0x2000) ∧
    decode ⟨.opSel4, [0x5, 0x20, 0x00, 0xDE]⟩ = .ok (.decode 0x2000 [0xDE]) ∧
    decode ⟨.opSel4, [0x6, 0x10, 0x00, 2, 0x01]⟩ = .ok (.encode 0x1000 (.int (-2))) := by decide

/-- R104, R105: OPSEL 0x7 to 0xC. -/
theorem test_decode_opsel_7_12 :
    decode ⟨.opSel4, [0x7, 0, 10, 0, 2]⟩ = .ok (.lookup 10 2) ∧
    decode ⟨.opSel4, [0x8, 0, 1, 0, 1, 0, 2, 0x00, 0xDE]⟩ = .ok (.load [⟨1, 1, [0x00, 0xDE]⟩]) ∧
    decode ⟨.opSel4, [0x9, 0, 0x12, 0x34, 1, 3, 0x00]⟩ = .ok (.buildPos (.streaming 0x1234) 1 3 [0x00]) ∧
    decode ⟨.opSel4, [0xA, 1, 1, 3, 2]⟩ = .ok (.buildNeg .serial 1 3 2) ∧
    decode ⟨.opSel4, [0xB, 1, 0xAA]⟩ = .ok (.dispatch .serial [0xAA]) ∧
    decode ⟨.opSel4, [0xC, 0xF7]⟩ = .ok (.setEsa 0xF7) := by decide

/-- R104, R110: the reserved selectors; and octets that are no spelling of anything. -/
theorem test_decode_rejections :
    decode ⟨.opSel4, [0xD]⟩ = .error (.reservedOp 0xD) ∧ decode ⟨.opSel4, [0xF, 1, 2]⟩ = .error (.reservedOp 0xF) ∧
    decode ⟨.opSel4, [0x10]⟩ = .error (.selectorTooWide 0x10) ∧ decode ⟨.opSel4, []⟩ = .error .emptyCommand ∧
    decode ⟨.opSel4, [0xC]⟩ = .error .badOperands ∧
    decode ⟨.streamNeg, [0, 7, 0, 0, 0, 3, 1, 0x04, 2]⟩ = .error (.notOfFormat .streamNeg) ∧
    decode ⟨.serialNeg, [1, 0x83, 2]⟩ = .error (.notOfFormat .serialNeg) := by decide

/-! Steps. -/

/-- A word of the table is the next instruction: OPSEL 0xC with an address octet of zero. -/
theorem test_withFetchWord :
    stateOf (step (State.reset.withFetchWord 8 0xC)) =
      some { State.reset with esa := some 0x00, results := [.done] } := by decide

/-- P4, step 12: a reserved selector is refused; octets that spell nothing fault. -/
theorem test_step_reserved :
    refusal (step { State.reset with inbox := [⟨.opSel4, [0xD]⟩] }) = some .reservedOp ∧
    fault (step { State.reset with inbox := [⟨.opSel4, []⟩] }) = some .malformedCommand := by decide

/-- P1, steps 1, 2 and 5, from reset. -/
theorem test_step_order :
    (stateOf (step { State.reset with inbox := [⟨.opSel4, [0xC, 1]⟩, ⟨.opSel4, [0x0]⟩] })).map State.inbox =
      some [⟨.opSel4, [0x0]⟩] := by decide

/-! CRC16: V-CRC-1, V-CRC-5, V-CRC-6. -/

theorem test_crc16_check : lastResult (exec (.crc16 [0x31, 0x32, 0x33, 0x34, 0x35, 0x36, 0x37, 0x38, 0x39]) State.reset) =
    some (.word 0x4B37) := by decide
theorem test_crc16_source : lastResult (exec (.crc16 [0x01, 0x03, 0x00, 0x0A, 0x00, 0x02]) State.reset) =
    some (.word 0x09E4) ∧ lastResult (exec (.crc16 []) State.reset) = some (.word 0xFFFF) := by decide

/-! Parsers: V-PAR-2, V-PAR-9, V-PAR-11, V-PAR-14, V-PAR-16. -/

theorem test_parseS_fields :
    lastResult (exec (.parseS [0x12, 0x34, 0, 0, 0, 6, 0x11, 0x04, 0x00, 0x1A, 0x00, 0x02]) State.reset) =
      some (.request (.streaming 0x1234 6
        ⟨0x11, 0x04, 26, 2, [0x12, 0x34, 0, 0, 0, 6, 0x11, 0x04, 0x00, 0x1A, 0x00, 0x02]⟩)) := by decide
theorem test_parseS_errors :
    lastResult (exec (.parseS [0, 1, 0, 1, 0, 6, 1, 3, 0, 1, 0, 1]) State.reset) =
      some (.error (.protocolIdMismatch 1)) ∧
    lastResult (exec (.parseS [0, 1, 0xFF, 0xFF, 0, 6, 1, 3, 0, 1, 0]) State.reset) =
      some (.error (.frameTooShort 11)) := by decide
theorem test_parseR_lastTwo :
    lastResult (exec (.parseR [1, 3, 0, 1, 0, 1, 0, 0, 0xCA, 0xD5]) State.reset) =
      some (.request (.serial 0xCAD5 ⟨1, 3, 1, 1, [1, 3, 0, 1, 0, 1, 0, 0, 0xCA, 0xD5]⟩)) := by decide
theorem test_parseR_short :
    lastResult (exec (.parseR [1, 3, 0, 1, 0, 1, 0xCA]) State.reset) = some (.error (.frameTooShort 7)) := by decide

/-! VALIDATE: V-VAL-16, V-VAL-27, V-VAL-18. -/

theorem test_validate_streaming :
    lastResult (exec (.validate (.streaming 1 7 ⟨0x02, 0x06, 1, 1, []⟩) 0x01) State.reset) =
      some (.validation ⟨false, ⟨true, false, true, true⟩⟩) ∧
    reasonBits ⟨true, false, true, true⟩ = 0xD := by decide
theorem test_validate_serial :
    lastResult (exec (.validate (.serial 0 ⟨0x02, 0x06, 1, 1, [2, 6, 0, 1, 0, 1, 0, 0, 0]⟩) 0x01) State.reset) =
      some (.validation ⟨false, ⟨true, true, true, true⟩⟩) ∧
    lastResult (exec (.validate serialRequest1 0x01) State.reset) =
      some (.validation ⟨true, ⟨false, false, false, false⟩⟩) := by decide

/-! WIDTHOF, and the tag rows: V-COD-14, 18 to 24, and ENCODE, DECODE rows read both ways. -/

theorem test_widthOf :
    lastResult (exec (.widthOf 0xB003) State.reset) = some (.width 4) ∧
    lastResult (exec (.widthOf 0xB100) State.reset) = some (.error (.invalidDataType 0xB100)) ∧
    lastResult (exec (.widthOf 0x2001) State.reset) = some (.error (.invalidDataType 0x2001)) ∧
    lastResult (exec (.widthOf 0xF001) State.reset) = some (.error (.invalidDataType 0xF001)) := by decide

/-- V-COD-26, V-COD-70. -/
theorem test_tagBool :
    lastResult (exec (.tagBool (.encode (.bool true))) State.reset) = some (.bytes [0x01]) ∧
    lastResult (exec (.tagBool (.decode [0xFF])) State.reset) = some (.value (.bool true)) := by decide
/-- V-COD-29. -/
theorem test_tagInt8 :
    lastResult (exec (.tagInt8 (.encode (.int (-128)))) State.reset) = some (.bytes [0x80]) ∧
    lastResult (exec (.tagInt8 (.decode [0x80])) State.reset) = some (.value (.int (-128))) := by decide
/-- V-COD-33. -/
theorem test_tagUint8 :
    lastResult (exec (.tagUint8 (.encode (.int 222))) State.reset) = some (.bytes [0xDE]) ∧
    lastResult (exec (.tagUint8 (.decode [0xDE])) State.reset) = some (.value (.int 222)) := by decide
/-- V-COD-39. -/
theorem test_tagInt16 :
    lastResult (exec (.tagInt16 (.encode (.int (-1234)))) State.reset) = some (.bytes [0xFB, 0x2E]) ∧
    lastResult (exec (.tagInt16 (.decode [0xFB, 0x2E])) State.reset) = some (.value (.int (-1234))) := by decide
/-- V-COD-40. -/
theorem test_tagUint16 :
    lastResult (exec (.tagUint16 (.encode (.int 48879))) State.reset) = some (.bytes [0xBE, 0xEF]) ∧
    lastResult (exec (.tagUint16 (.decode [0xBE, 0xEF])) State.reset) = some (.value (.int 48879)) := by decide
/-- V-COD-44. -/
theorem test_tagInt32 :
    lastResult (exec (.tagInt32 (.encode (.int (-123456789)))) State.reset) =
      some (.bytes [0xF8, 0xA4, 0x32, 0xEB]) ∧
    lastResult (exec (.tagInt32 (.decode [0xF8, 0xA4, 0x32, 0xEB])) State.reset) =
      some (.value (.int (-123456789))) := by decide
/-- V-COD-46. -/
theorem test_tagUint32 :
    lastResult (exec (.tagUint32 (.encode (.int 3735928559))) State.reset) =
      some (.bytes [0xDE, 0xAD, 0xBE, 0xEF]) ∧
    lastResult (exec (.tagUint32 (.decode [0xDE, 0xAD, 0xBE, 0xEF])) State.reset) =
      some (.value (.int 3735928559)) := by decide
/-- V-COD-50. -/
theorem test_tagInt64 :
    lastResult (exec (.tagInt64 (.encode (.int (-2)))) State.reset) =
      some (.bytes [0xFF, 0xFF, 0xFF, 0xFF, 0xFF, 0xFF, 0xFF, 0xFE]) ∧
    lastResult (exec (.tagInt64 (.decode [0xFF, 0xFF, 0xFF, 0xFF, 0xFF, 0xFF, 0xFF, 0xFE])) State.reset) =
      some (.value (.int (-2))) := by decide
/-- V-COD-51. -/
theorem test_tagUint64 :
    lastResult (exec (.tagUint64 (.encode (.int 81985529216486895))) State.reset) =
      some (.bytes [0x01, 0x23, 0x45, 0x67, 0x89, 0xAB, 0xCD, 0xEF]) ∧
    lastResult (exec (.tagUint64 (.decode [0x01, 0x23, 0x45, 0x67, 0x89, 0xAB, 0xCD, 0xEF])) State.reset) =
      some (.value (.int 81985529216486895)) := by decide
/-- V-COD-57. -/
theorem test_tagReal32 :
    lastResult (exec (.tagReal32 (.encode (.real32 0x7FC00001))) State.reset) =
      some (.bytes [0x7F, 0xC0, 0x00, 0x01]) ∧
    lastResult (exec (.tagReal32 (.decode [0x7F, 0xC0, 0x00, 0x01])) State.reset) =
      some (.value (.real32 0x7FC00001)) := by decide
/-- V-COD-59. -/
theorem test_tagReal64 :
    lastResult (exec (.tagReal64 (.encode (.real64 0xC004000000000000))) State.reset) =
      some (.bytes [0xC0, 0x04, 0, 0, 0, 0, 0, 0]) ∧
    lastResult (exec (.tagReal64 (.decode [0xC0, 0x04, 0, 0, 0, 0, 0, 0])) State.reset) =
      some (.value (.real64 0xC004000000000000)) := by decide
/-- V-COD-64, 77, 78. -/
theorem test_tagString_leading :
    lastResult (exec (.tagString 3 (.encode (.string [0x41, 0x42, 0x43]))) State.reset) =
      some (.bytes [0x00, 0x41, 0x42, 0x43]) ∧
    lastResult (exec (.tagString 3 (.decode [0x41, 0x42, 0x43, 0x44, 0x45])) State.reset) =
      some (.value (.string [0x43, 0x44, 0x45])) ∧
    lastResult (exec (.tagString 4 (.decode [0x41, 0x42])) State.reset) =
      some (.value (.string [0x00, 0x00, 0x41, 0x42])) := by decide
/-- V-COD-94, 97, 98. -/
theorem test_tagString_trailing :
    lastResult (exec (.tagString 3 (.encode (.string [0x41, 0x42, 0x43]))) (trailing State.reset)) =
      some (.bytes [0x41, 0x42, 0x43, 0x00]) ∧
    lastResult (exec (.tagString 3 (.decode [0x41, 0x42, 0x43, 0x44, 0x45])) (trailing State.reset)) =
      some (.value (.string [0x41, 0x42, 0x43])) ∧
    lastResult (exec (.tagString 4 (.decode [0x41, 0x42])) (trailing State.reset)) =
      some (.value (.string [0x41, 0x42, 0x00, 0x00])) := by decide

/-- V-COD-71, 73, 74, 79. -/
theorem test_decode_operation :
    refusal (exec (.decode 0x2000 [0x00, 0xDE]) State.reset) = some .decodeLength ∧
    refusal (exec (.decode 0x6000 []) State.reset) = some .decodeLength ∧
    lastResult (exec (.decode 0xC000 [0x00]) State.reset) = some (.error (.invalidDataType 0xC000)) ∧
    lastResult (exec (.decode 0xB002 []) State.reset) = some (.value (.string [0x00, 0x00])) := by decide
/-- V-COD-82, 85, 88, 90, 91. -/
theorem test_encode_operation :
    refusal (exec (.encode 0x2000 (.int 256)) State.reset) = some .encodeRange ∧
    refusal (exec (.encode 0x1000 (.int (-129))) State.reset) = some .encodeRange ∧
    refusal (exec (.encode 0xB003 (.string [0x41, 0x42])) State.reset) = some .encodeRange ∧
    refusal (exec (.encode 0x2000 (.bool true)) State.reset) = some .encodeRange ∧
    lastResult (exec (.encode 0xB000 (.string [])) State.reset) = some (.error (.invalidDataType 0xB000)) := by
  decide

/-- R142, R143: 0xB0FE is STRING(254), 0xB0FF STRING(255); 0xB100, 0xB000 and 0xC000 fail. -/
theorem test_regCountOfWord :
    regCountOfWord 0x0000 = .ok 1 ∧ regCountOfWord 0x5000 = .ok 2 ∧ regCountOfWord 0xB003 = .ok 2 ∧
    regCountOfWord 0xB0FE = .ok 127 ∧ regCountOfWord 0xB0FF = .ok 128 ∧
    regCountOfWord 0xB100 = .error (.invalidDataType 0xB100) ∧
    regCountOfWord 0xC000 = .error (.invalidDataType 0xC000) := ⟨rfl, rfl, rfl, rfl, rfl, rfl, rfl⟩

/-- V-COD-102, 108, 111, 112, and the signed views of V-PAR-5. -/
theorem test_image :
    image defaultConfig .int8 (.int (-2)) = some [0x00, 0xFE] ∧
    image defaultConfig (.string 3) (.string [0x41, 0x42, 0x43]) = some [0x00, 0x41, 0x42, 0x43] ∧
    unimage defaultConfig .int8 [0xFF, 0xFE] = .int (-2) ∧
    startSigned ⟨1, 3, 0x8000, 0xFFFE, []⟩ = -32768 ∧ countSigned ⟨1, 3, 0x8000, 0xFFFE, []⟩ = -2 := by decide

/-! The register store: V-REG-2, 6, 18, 21 to 28. -/

theorem test_lookup :
    lastResult (exec (.lookup 1 1) served) = some (.payload (some [0x00, 0xDE])) ∧
    lastResult (exec (.lookup 0 2) served) = some (.payload none) ∧
    refusal (exec (.lookup 0 1) State.reset) = some .notLoaded := by decide
theorem test_load_refusals :
    refusal (exec (.load [⟨1, 1, [0xDE]⟩]) State.reset) = some .badEntry ∧
    refusal (exec (.load [⟨1, 0, []⟩]) State.reset) = some .badEntry ∧
    refusal (exec (.load [⟨1, 1, [0x00, 0xDE]⟩, ⟨1, 1, [0x00, 0xDF]⟩]) State.reset) = some .duplicateKey ∧
    refusal (exec (.load rows) served) = some .alreadyLoaded := by decide
theorem test_load_accepts :
    (stateOf (exec (.load [⟨1, 2, [0x00, 0xDE, 0x00, 0xDF]⟩, ⟨1, 1, [0x00, 0xDE]⟩]) State.reset)).map State.table =
      some [⟨1, 1, [0x00, 0xDE]⟩, ⟨1, 2, [0x00, 0xDE, 0x00, 0xDF]⟩] := by decide
theorem test_setEsa :
    (stateOf (exec (.setEsa 0xF7) served)).map State.esa = some (some 0xF7) ∧
    lastResult (exec (.setEsa 0x00) State.reset) = some .done := by decide

/-! Builders: V-BLD-2, 4, 14, 17, 19, 22, 23; the rows of class response and exception_code emit the
same. -/

theorem test_buildPos :
    lastBytes (exec (.buildPos (.streaming 0xFFFF) 0xFF 0x04 [0xDE, 0xAD, 0xBE, 0xEF]) State.reset) =
      some [0xFF, 0xFF, 0x00, 0x00, 0x00, 0x07, 0xFF, 0x04, 0x04, 0xDE, 0xAD, 0xBE, 0xEF] ∧
    lastBytes (exec (.buildPos .serial 0x01 0x03 [0x00, 0xDE]) State.reset) =
      some [0x01, 0x03, 0x02, 0x00, 0xDE, 0x1C, 0x38] := by decide
theorem test_buildPos_refusal :
    refusal (exec (.buildPos (.streaming 0) 0x01 0x03 (rep 0 256)) State.reset) = some .payloadTooLong := by decide
theorem test_buildNeg :
    lastBytes (exec (.buildNeg (.streaming 1) 0x01 0xFF 0xEE) State.reset) =
      some [0x00, 0x01, 0x00, 0x00, 0x00, 0x03, 0x01, 0xFF, 0xEE] ∧
    lastBytes (exec (.buildNeg .serial 0x01 0x04 0x02) State.reset) = some [0x01, 0x84, 0x02, 0xC1, 0xC2] := by
  decide
theorem test_streamPos : lastBytes (exec (.streamPos 1 0 0x01 0x03 0 [0x00, 0xDE]) State.reset) =
    some [0x00, 0x01, 0x00, 0x00, 0x00, 0x05, 0x01, 0x03, 0x02, 0x00, 0xDE] := by decide
theorem test_streamNeg : lastBytes (exec (.streamNeg 1 0x01 0x10 0x01) State.reset) =
    some [0x00, 0x01, 0x00, 0x00, 0x00, 0x03, 0x01, 0x90, 0x01] := by decide
theorem test_serialPos : lastBytes (exec (.serialPos 0x01 0x03 0 [0x00, 0xDE] 0) State.reset) =
    some [0x01, 0x03, 0x02, 0x00, 0xDE, 0x1C, 0x38] := by decide
theorem test_serialNeg : lastBytes (exec (.serialNeg 0x01 0x03 0x02 0) State.reset) =
    some [0x01, 0x83, 0x02, 0xF1, 0xC0] := by decide
/-- V-BLD-26, 22, V-CRC-19, V-BLD-24, 25; the CRC16 of the other five is not in the vectors. -/
theorem test_exc_serial :
    lastBytes (exec (.exc01 .serial 0x01 0x06) State.reset) = some [0x01, 0x86, 0x01, 0xA0, 0x83] ∧
    lastBytes (exec (.exc02 .serial 0x01 0x03) State.reset) = some [0x01, 0x83, 0x02, 0xF1, 0xC0] ∧
    lastBytes (exec (.exc03 .serial 0x01 0x03) State.reset) = some [0x01, 0x83, 0x03, 0x31, 0x01] ∧
    lastBytes (exec (.exc08 .serial 0x01 0x03) State.reset) = some [0x01, 0x83, 0x08, 0xF6, 0x40] ∧
    lastBytes (exec (.exc0B .serial 0x02 0x03) State.reset) = some [0x02, 0x83, 0x0B, 0xF7, 0xF0] := by decide
theorem test_exc_streaming :
    ∀ p ∈ [((0x04 : Byte), Instr.exc04 (.streaming 1) 0x01 0x03), (0x05, .exc05 (.streaming 1) 0x01 0x03),
        (0x06, .exc06 (.streaming 1) 0x01 0x03), (0x07, .exc07 (.streaming 1) 0x01 0x03),
        (0x0A, .exc0A (.streaming 1) 0x01 0x03)],
      lastBytes (exec p.2 State.reset) = some [0x00, 0x01, 0x00, 0x00, 0x00, 0x03, 0x01, 0x83, p.1] := by decide

/-! DISPATCH and the request rows: V-DSP-2, 4, 6, 10, 12, 19, 20, 24, 25, 27, 31, 32, 34, 41, 47. -/

theorem test_streamRead03 :
    lastBytes (exec (.streamRead03 0x1234 0x01 26 2 []) served) =
      some [0x12, 0x34, 0x00, 0x00, 0x00, 0x07, 0x01, 0x03, 0x04, 0x3F, 0x80, 0x00, 0x00] ∧
    lastBytes (exec (.streamRead03 10 0x01 1 1 [0xFF, 0xFF]) served) =
      some [0x00, 0x0A, 0x00, 0x00, 0x00, 0x05, 0x01, 0x03, 0x02, 0x00, 0xDE] := by decide
theorem test_streamRead04 :
    lastBytes (exec (.streamRead04 1 0x01 1 1 []) served) =
      some [0x00, 0x01, 0x00, 0x00, 0x00, 0x05, 0x01, 0x04, 0x02, 0x00, 0xDE] := by decide
theorem test_serialRead03 :
    lastBytes (exec (.serialRead03 0x01 10 2 0x09E4) served) =
      some [0x01, 0x03, 0x04, 0xDE, 0xAD, 0xBE, 0xEF, 0xD6, 0x61] ∧
    lastBytes (exec (.serialRead03 0x01 1 1 0xCAD4) served) = some [0x01, 0x83, 0x08, 0xF6, 0x40] := by decide
theorem test_serialRead04 :
    lastBytes (exec (.serialRead04 0x01 1 1 0x0A60) served) = some [0x01, 0x04, 0x02, 0x00, 0xDE, 0x68, 0x39] := by
  decide
theorem test_dispatch_answers :
    lastBytes (exec (.dispatch .streaming [0, 2, 0, 0, 0, 6, 1, 3, 0, 0, 0, 0x63]) served) =
      some [0x00, 0x02, 0x00, 0x00, 0x00, 0x03, 0x01, 0x83, 0x02] ∧
    lastBytes (exec (.dispatch .streaming [0, 4, 0, 0, 0, 6, 2, 3, 0, 1, 0, 1]) served) =
      some [0x00, 0x04, 0x00, 0x00, 0x00, 0x03, 0x02, 0x83, 0x0B] ∧
    lastBytes (exec (.dispatch .streaming [0, 6, 0, 0, 0, 7, 1, 3, 0, 1, 0, 1]) served) =
      some [0x00, 0x06, 0x00, 0x00, 0x00, 0x03, 0x01, 0x83, 0x03] ∧
    lastBytes (exec (.dispatch .serial [1, 3, 0, 1, 0, 1, 0xD5, 0xCA]) served) =
      some [0x01, 0x83, 0x08, 0xF6, 0x40] := by decide
theorem test_dispatch_stops :
    lastBytes (exec (.dispatch .streaming [0, 8, 0, 1, 0, 6, 1, 3, 0, 1, 0, 1]) served) = some [] ∧
    refusal (exec (.dispatch .streaming streamFrame1) State.reset) = some .notLoaded ∧
    refusal (exec (.dispatch .streaming streamFrame1) { served with esa := none }) = some .esaUnset ∧
    refusal (exec (.dispatch .streaming (rep 0 17)) (bounded served)) = some .bufferTooLong := by decide

/-- V-DSP-47: `VIOL_PRIORITY` = Length, Function, Checksum, Address. -/
theorem test_excSel_priority :
    lastBytes (exec (.dispatch .serial [2, 6, 0, 1, 0, 1, 0, 0])
      { served with config := { served.config with violPriority :=
        ⟨.lengthMismatch, .unsupportedFunction, .checksumMismatch, .addressMismatch⟩ } }) =
      some [0x02, 0x86, 0x01, 0xA0, 0x73] := by decide

/-- The taxonomy and the names of the codes (R291, R99). -/
theorem test_names :
    errorCode (errorName (.invalidDataType 0)) = 3 ∧ errorCode (violationName .lengthMismatch) = 8 ∧
    exceptionName 0x02 = some "Illegal Data Address" ∧ exceptionName 0x09 = none ∧
    defaultTableKeys.map (fun k => (tableTypeWidth k.type + 1) / 2) =
      defaultTableKeys.map (fun k => k.count.toNat) := by decide

/-! Witnesses: for each statement with hypotheses, a state and operands that meet them together, and for
each clause one at a boundary of its range. -/

theorem served_loaded : Loaded served := ⟨rfl, by decide⟩
theorem served_esaSet : EsaSet served 0x01 := rfl
theorem served_accepts (raw : List Byte) : Accepts served raw := by intro m h; cases h
theorem bounded_accepts : Accepts (bounded served) (rep 0 16) ∧ ¬ Accepts (bounded served) (rep 0 17) := by
  refine ⟨?_, ?_⟩
  · intro m h; cases h; decide
  · intro h; exact absurd (h 16 rfl) (by decide)

/-- Reset with a LOAD waiting. -/
def loading : State := { State.reset with inbox := [encode (.load rows)] }

theorem witness_EveryStepKeepsTheInvariant :
    Inv loading ∧
    stateOf (step loading) = some { served with esa := none, results := [.done] } :=
  ⟨⟨by decide, by decide, by decide⟩, by decide⟩

theorem witness_StepRunsTheDecodedInstruction :
    ({ State.reset with inbox := [⟨.opSel4, [0xC, 0xF7]⟩] } : State).inbox = [⟨.opSel4, [0xC, 0xF7]⟩] ∧
    decode ⟨.opSel4, [0xC, 0xF7]⟩ = .ok (.setEsa 0xF7) := ⟨rfl, rfl⟩

theorem witness_ReservedSelectorsAreRefused :
    13 ≤ (0xD : Byte).toNat ∧ (0xD : Byte).toNat ≤ 15 ∧ 13 ≤ (0xF : Byte).toNat ∧ (0xF : Byte).toNat ≤ 15 ∧
    ({ State.reset with inbox := [⟨.opSel4, [0xD]⟩] } : State).inbox = [⟨.opSel4, [0xD]⟩] ∧
    State.reset.inbox = [] := by decide

theorem witness_LifecycleNeverGoesBack :
    step served = .next served ∧ served.loaded = true ∧ served.esa.isSome = true ∧ phase served = .serve :=
  ⟨rfl, rfl, rfl, rfl⟩

theorem witness_OnlyLoadAndSetEsaWriteState :
    exec (.widthOf 0x2000) served = .next { served with results := [.width 1] } ∧
    (∀ es, Instr.widthOf 0x2000 ≠ .load es) ∧ ∀ a, Instr.widthOf 0x2000 ≠ .setEsa a :=
  ⟨rfl, by simp, by simp⟩

theorem witness_ErrorsLeaveNoTrace :
    exec (.widthOf 0xC000) served = .next { served with results := served.results ++ [.error (.invalidDataType 0xC000)] } :=
  rfl

theorem samePersistent_results (s : State) (r : List Result) : SamePersistent s { s with results := r } :=
  ⟨rfl, rfl, rfl, rfl⟩

theorem witness_ResultsDependOnPersistentStateOnly :
    SamePersistent served { served with results := [.done] } ∧
    lastResult (exec (.lookup 1 1) served) = some (.payload (some [0x00, 0xDE])) ∧
    refusal (exec (.load rows) served) = some .alreadyLoaded :=
  ⟨samePersistent_results _ _, by decide, by decide⟩

theorem witness_DecodeOfEncodeIsTheInstruction :
    encodable (.load rows) = true ∧ wellFormed (.load rows) = true ∧ encodable (.setEsa 0xFF) = true := by decide

theorem witness_EncodeOfDecodedFrameIsTheFrame :
    decode ⟨.serialNeg, [0x01, 0x84, 0x02, 0xC1, 0xC2]⟩ = .ok (.serialNeg 0x01 4 0x02 0xC1C2) ∧
    decode ⟨.streamReq, []⟩ = .ok (.dispatch .streaming []) ∧ decode ⟨.serialReq, []⟩ = .ok (.dispatch .serial []) := by
  decide

theorem witness_RequestRowsAreTheMasksOfTheTable :
    streamFrame1.length = 12 ∧ beNat (streamFrame1.take 12) &&& 0x0000FFFFFFFF00FF00000000 = 0x000000000006000300000000 ∧
    serialFrame1.length = 8 ∧ beNat serialFrame1 &&& 0x00FF000000000000 = 0x0003000000000000 := by decide

theorem witness_CrcRoundBitByBit : (1 : Nat) ≤ 14 ∧ (1 : Nat) ≠ 13 ∧ (1 : Nat) ≠ 0 ∧ (14 : Nat) ≤ 14 ∧ (14 : Nat) ≠ 13 := by
  decide

theorem witness_SerialBitFlipIsReportedAndAnswered :
    Loaded served ∧ EsaSet served 0x01 ∧ Accepts served serialFrame1 ∧ serialFrame1.length = 8 ∧
    parseSerial serialFrame1 = .ok serialRequest1 ∧ (validate serialRequest1 0x01).ok = true ∧
    serialFrame1.set 7 (byteAt serialFrame1 7 ^^^ (1#8 <<< 7)) = [0x01, 0x03, 0x00, 0x01, 0x00, 0x01, 0xCA, 0x55] :=
  ⟨served_loaded, rfl, served_accepts _, rfl, rfl, by decide, by decide⟩

theorem witness_WidthOfAnswersTheCodecWidth :
    (0xA000#16).toNat / 4096 = 10 ∧ (0xA000#16).toNat % 4096 = 0 ∧ (0x0FFF#16).toNat / 4096 ≤ 10 ∧
    (0x0FFF#16).toNat % 4096 ≠ 0 ∧ (0xB001#16).toNat / 4096 = 11 ∧ (0xB001#16).toNat % 4096 = 1 ∧
    (0xB0FF#16).toNat % 4096 = 255 ∧ (0xB000#16).toNat % 4096 = 0 ∧ 255 < (0xB100#16).toNat % 4096 ∧
    12 ≤ (0xC000#16).toNat / 4096 := by decide

theorem witness_DecodeOfSignedIsTwosComplement :
    [0x80#8].length = 1 ∧ (rep 0xFF 2).length = 2 ∧ (rep 0xFF 4).length = 4 ∧ (rep 0x80 8).length = 8 := by decide

/-- For DecodeOfStringCutsOrFills and EncodeOfStringPads. -/
theorem witness_strings :
    1 ≤ (1 : BitVec 12).toNat ∧ (255 : BitVec 12).toNat ≤ 255 ∧ served.config.strPad = .leading ∧
    (trailing served).config.strPad = .trailing ∧ (1 : BitVec 12).toNat ≤ [0x41#8].length ∧
    ([] : List Byte).length < (1 : BitVec 12).toNat ∧ (rep 0x41 255).length = (255 : BitVec 12).toNat ∧
    (255 : BitVec 12).toNat % 2 = 1 ∧ (2 : BitVec 12).toNat % 2 = 0 ∧ ([] : List Byte).length ≠ (1 : BitVec 12).toNat := by
  decide

theorem witness_EncodeOfBoolAndIntegers :
    (0 : Int) ≤ 255 ∧ (255 : Int) < 2 ^ (8 * 1) ∧ (18446744073709551615 : Int) < 2 ^ (8 * 8) ∧
    -(2 ^ (8 * 1 - 1)) ≤ (-128 : Int) ∧ (-128 : Int) < 2 ^ (8 * 1 - 1) ∧
    (9223372036854775807 : Int) < 2 ^ (8 * 8 - 1) := by decide

theorem witness_CodecStopsOutsideItsDomain :
    tagOfWord 0xC000 = none ∧ tagOfWord 0x2000 = some .uint8 ∧ [0x00#8, 0xDE].length ≠ tagWidth .uint8 ∧
    valueFits .uint8 (.int 256) = false ∧ valueFits .uint8 (.int 255) = true := by decide

theorem witness_CodecRoundTrip :
    Answers (.encode 0xB003 (.string [0x41, 0x42, 0x43])) served (.bytes [0x00, 0x41, 0x42, 0x43]) ∧
    1 ≤ (0x1000#16).toNat / 4096 ∧ (0xA000#16).toNat / 4096 ≤ 10 ∧
    Answers (.decode 0x1000 [0x80]) served (.value (.int (-128))) ∧
    (0x80 : Byte) ≠ 0x00 ∧ (0x80 : Byte) ≠ 0x01 ∧
    (3 : BitVec 12).toNat % 2 = 1 ∧ [0x41#8, 0x42, 0x43].length = (3 : BitVec 12).toNat ∧ (0x58 : Byte) ≠ served.config.fill :=
  ⟨rfl, by decide, by decide, rfl, by decide, by decide, by decide, by decide, by decide⟩

theorem witness_ImageRoundTrip :
    encodeValue defaultConfig .uint8 (.int 222) = some [0xDE] ∧
    encodeValue defaultConfig .int16 (.int (-1)) = some [0xFF, 0xFF] := by decide

theorem witness_ParseStreamingExtractsTheFields :
    Accepts served streamFrame1 ∧ 12 ≤ streamFrame1.length ∧
    pairNat (byteAt streamFrame1 2) (byteAt streamFrame1 3) = 0 ∧ (streamFrame1.take 11).length < 12 ∧
    (0x0100 : Word).toNat = pairNat 0x01 0x00 ∧ (0x0100 : Word) ≠ 0 :=
  ⟨served_accepts _, by decide, by decide, by decide, by decide, by decide⟩

theorem witness_ParseSerialExtractsTheFields :
    Accepts served serialFrame1 ∧ 8 ≤ serialFrame1.length ∧ (serialFrame1.take 7).length < 8 :=
  ⟨served_accepts _, by decide, by decide⟩

theorem witness_BuffersBeyondRxMaxAreRefused :
    ¬ Accepts (bounded served) (rep 0 17) ∧ Accepts (bounded served) (rep 0 16) ∧
    Loaded (bounded served) ∧ EsaSet (bounded served) 0x01 :=
  ⟨bounded_accepts.2, bounded_accepts.1, ⟨rfl, by decide⟩, rfl⟩

theorem witness_ValidateReportsEveryViolation :
    serialRequest1 = .serial 0xCAD5 ⟨0x01, 0x03, 1, 1, serialFrame1⟩ ∧ 6 ≤ (serialFrame1.take 6).length := by decide

theorem witness_LookupIsByExactKey :
    State.reset.loaded = false ∧ Loaded served ∧ (⟨1, 1, [0x00, 0xDE]⟩ : Entry) ∈ served.table ∧
    (∀ e ∈ served.table, ¬ (e.start = 0xFFFF ∧ e.count = 0)) := ⟨rfl, served_loaded, by decide, by decide⟩

theorem witness_LookupAnswersTwoBytesARegister :
    Loaded served ∧ Answers (.lookup 1 1) served (.payload (some [0x00, 0xDE])) := ⟨served_loaded, rfl⟩

theorem witness_LoadFillsTheTable :
    State.reset.loaded = false ∧
    (∀ e ∈ rows, 1 ≤ e.count.toNat ∧ e.count.toNat ≤ 127 ∧ e.payload.length = 2 * e.count.toNat) ∧
    (rows.map fun e => (e.start, e.count)).Nodup ∧ (∀ e ∈ rows, ¬ (e.start = 0 ∧ e.count = 2)) := by decide

theorem witness_LoadRefusesWhatIsNotWellFormed :
    let good := fun e : Entry => 1 ≤ e.count.toNat ∧ e.count.toNat ≤ 127 ∧ e.payload.length = 2 * e.count.toNat
    served.loaded = true ∧ State.reset.loaded = false ∧
    (∀ e ∈ [(⟨1, 1, [0x00, 0xDE]⟩ : Entry), ⟨1, 1, [0x00, 0xDF]⟩], good e) ∧
    ¬ ([(⟨1, 1, [0x00, 0xDE]⟩ : Entry), ⟨1, 1, [0x00, 0xDF]⟩].map fun e => (e.start, e.count)).Nodup ∧
    ([(⟨1, 128, rep 0 256⟩ : Entry)].map fun e => (e.start, e.count)).Nodup ∧ ¬ good ⟨1, 128, rep 0 256⟩ ∧
    ¬ good ⟨1, 0, []⟩ ∧ ¬ good ⟨1, 1, [0xDE]⟩ ∧ good ⟨1, 127, rep 0 254⟩ ∧
    ¬ ([(⟨1, 0, []⟩ : Entry), ⟨1, 0, []⟩].map fun e => (e.start, e.count)).Nodup := by decide

theorem witness_SetEsaIsTheAddressDispatchExpects :
    Loaded served ∧ Accepts served serialFrame1 ∧ parse .serial serialFrame1 = .ok serialRequest1 ∧
    (requestFields serialRequest1).slaveAddress ≠ 0x02 ∧ (requestFields serialRequest1).slaveAddress = 0x01 ∧
    Answers (.validate serialRequest1 0x01) served (.validation ⟨true, ⟨false, false, false, false⟩⟩) ∧
    Answers (.lookup 1 1) served (.payload (some [0x00, 0xDE])) ∧
    Answers (.lookup 1 1) { served with table := [] } (.payload none) ∧
    (validate (.serial 0xCAD4 ⟨1, 3, 1, 1, [1, 3, 0, 1, 0, 1, 0xCA, 0xD4]⟩) 0x01).ok = false :=
  ⟨served_loaded, served_accepts _, rfl, by decide, by decide, rfl, rfl, rfl, by decide⟩

/-- A payload of zeros for each default key, and reset with those as its TABLE_VALUES. -/
def zeroPayloads : List (List Byte) := defaultTableKeys.map fun k => rep 0 (2 * k.count.toNat)
def filled : State := { State.reset with config := { defaultConfig with tableValues := some zeroPayloads } }

/-- R11: TABLE_VALUES is a map from key to 2 x count bytes: a short payload, a missing one and a key that
stands twice are not what R11 asks; OPEN is. -/
theorem test_configWf_tableValues :
    configWf defaultConfig = true ∧
    configWf { defaultConfig with tableKeys := [⟨1, 1, .uint8⟩], tableValues := some [[0xDE]] } = false ∧
    configWf { defaultConfig with tableKeys := [⟨1, 1, .uint8⟩], tableValues := some [] } = false ∧
    configWf { defaultConfig with tableKeys := [⟨1, 1, .uint8⟩, ⟨1, 1, .int8⟩] } = false ∧
    configWf { defaultConfig with tableKeys := [⟨1, 1, .uint8⟩], tableValues := some [[0x00, 0xDE]] } = true := by
  decide

theorem witness_DefaultTableServesItsKeys :
    filled.loaded = false ∧ configWf filled.config = true ∧ filled.config.tableKeys = defaultTableKeys ∧
    filled.config.tableValues = some zeroPayloads ∧
    (∀ k ∈ filled.config.tableKeys, 1 ≤ k.count.toNat ∧ k.count.toNat ≤ 127) ∧
    zeroPayloads.map List.length = [2, 2, 2, 2, 4, 4, 4, 4, 6, 6, 8, 8, 4, 8, 2, 2, 4, 6, 8, 10, 12] := by decide

/-- For BuildPosEmitsThePositiveFrame and ReceiverFindsTheLength. -/
theorem witness_payload_lengths : (rep 0 255).length ≤ 255 ∧ 255 < (rep 0 256).length ∧ (0x7F : Byte).getLsbD 7 = false := by
  decide

theorem witness_ResponseRowsEmitTheirOwnFrame :
    wellFormed (.streamPos 1 5 0x01 0x03 2 [0x00, 0xDE]) = true ∧
    (encode (.streamPos 1 5 0x01 0x03 2 [0x00, 0xDE])).format = .streamPos ∧
    (encode (.streamNeg 1 0x01 3 2)).format = .streamNeg ∧ wellFormed (.serialNeg 0x01 3 0x02 0xF1C0) = true := by
  decide

theorem witness_DispatchRefusesBeforeSetUp :
    State.reset.loaded = false ∧ ({ served with esa := none } : State).esa = none ∧
    (bounded served).loaded = true ∧ EsaSet (bounded served) 0x01 ∧ ¬ Accepts (bounded served) (rep 0 17) ∧
    (∃ i, i = Instr.streamRead03 1 1 1 1 (rep 0 5) ∧ ¬ Accepts (bounded served) (encode i).bytes) ∧
    ¬ Accepts { served with config := { served.config with rxMax := some 7 } } (encode (.serialRead03 1 1 1 0)).bytes :=
  ⟨rfl, rfl, rfl, rfl, bounded_accepts.2, ⟨_, rfl, fun h => absurd (h 16 rfl) (by decide)⟩,
    fun h => absurd (h 7 rfl) (by decide)⟩

theorem witness_ParseErrorGivesNoBytes :
    Loaded served ∧ EsaSet served 0x01 ∧ (rep 0 11).length < 12 ∧ 12 ≤ (rep 0 2 ++ rep 1 10).length ∧
    pairNat (byteAt (rep 0 2 ++ rep 1 10) 2) (byteAt (rep 0 2 ++ rep 1 10) 3) ≠ 0 ∧ (rep 0 7).length < 8 :=
  ⟨served_loaded, rfl, by decide, by decide, by decide, by decide⟩

theorem witness_DispatchIsTheChainOfUnitOperations :
    Answers (.parseR [0x01]) served (.error (.frameTooShort 1)) ∧
    Answers (.parseR serialFrame1) served (.request serialRequest1) ∧
    Answers (.validate serialRequest1 0x01) served (.validation ⟨true, ⟨false, false, false, false⟩⟩) ∧
    Answers (.lookup 1 1) served (.payload (some [0x00, 0xDE])) ∧
    Answers (.lookup 1 1) { served with table := [] } (.payload none) ∧
    (validate serialRequest1 0x02).ok = false := ⟨rfl, rfl, rfl, rfl, rfl, by decide⟩

theorem witness_ExceptionCodeFollowsThePriority :
    served.config.violPriority = defaultPriority ∧ configWf served.config = true ∧
    reasonsEmpty ⟨true, false, false, false⟩ = false ∧ hasViolation ⟨true, true, false, false⟩ .checksumMismatch = true := by
  decide

/-- One request for each outcome class: wrong address, bad CRC16, FUNC 0x06, LEN 7, a miss, a hit. -/
theorem witness_DispatchOutcomeClasses :
    parse .serial [1, 6, 0, 1, 0, 1, 0xCA, 0x19] = .ok (.serial 0xCA19 ⟨1, 6, 1, 1, [1, 6, 0, 1, 0, 1, 0xCA, 0x19]⟩) ∧
    (validate serialRequest1 0x02).reasons = ⟨false, false, true, false⟩ ∧
    (validate (.serial 0xCAD4 ⟨1, 3, 1, 1, [1, 3, 0, 1, 0, 1, 0xCA, 0xD4]⟩) 0x01).reasons = ⟨false, true, false, false⟩ ∧
    (validate (.serial 0xCA19 ⟨1, 6, 1, 1, [1, 6, 0, 1, 0, 1, 0xCA, 0x19]⟩) 0x01).reasons = ⟨false, false, false, true⟩ ∧
    (validate (.streaming 1 7 ⟨1, 3, 1, 1, []⟩) 0x01).reasons = ⟨true, false, false, false⟩ ∧
    (validate serialRequest1 0x01).reasons = ⟨false, false, false, false⟩ ∧
    (∃ e ∈ served.table, e.start = 1 ∧ e.count = 1) ∧ (∀ e ∈ served.table, ¬ (e.start = 0 ∧ e.count = 99)) := by
  refine ⟨rfl, by decide, by decide, by decide, by decide, by decide, ⟨⟨1, 1, [0x00, 0xDE]⟩, by decide, rfl, rfl⟩, by decide⟩

theorem witness_RequestRowsAreAnswered :
    Loaded served ∧ EsaSet served 0x01 ∧ served.config.violPriority = defaultPriority ∧
    Accepts served (encode (.serialRead03 0x01 1 1 0xCAD5)).bytes ∧
    Accepts served (encode (.streamRead04 0x1234 0x01 0 99 [])).bytes ∧
    (0xCAD5 : Word) = crc16 ((encode (.serialRead03 0x01 1 1 0xCAD5)).bytes.take 6) ∧ (0x02 : Byte) ≠ 0x01 ∧
    (⟨1, 1, [0x00, 0xDE]⟩ : Entry) ∈ served.table ∧ (∀ e ∈ served.table, ¬ (e.start = 0 ∧ e.count = 99)) :=
  ⟨served_loaded, rfl, rfl, served_accepts _, served_accepts _, by decide, by decide, by decide, by decide⟩

theorem witness_BadChecksumIsAnswered :
    Loaded served ∧ EsaSet served 0x01 ∧ served.config.violPriority = defaultPriority ∧
    (0xCAD4 : Word) ≠ crc16 ((encode (.serialRead03 0x01 1 1 0xCAD4)).bytes.take 6) :=
  ⟨served_loaded, rfl, rfl, by decide⟩

theorem witness_StreamingTrailingOctetsAreIgnored :
    12 ≤ streamFrame1.length ∧ Accepts served (streamFrame1 ++ [0xFF]) := ⟨by decide, served_accepts _⟩

theorem witness_DispatchIsIdempotent :
    Answers (.dispatch .serial serialFrame1) served (.bytes [0x01, 0x03, 0x02, 0x00, 0xDE, 0x1C, 0x38]) ∧
    SamePersistent served { served with results := [.done] } ∧
    ∃ u, exec (.widthOf 0x2000) { served with results := [.bytes [0x01, 0x03, 0x02, 0x00, 0xDE, 0x1C, 0x38]] } = .next u :=
  ⟨rfl, samePersistent_results _ _, _, rfl⟩

theorem witness_DispatchSendsOnlyItsCodes :
    Loaded served ∧ Answers (.dispatch .serial [0x01]) served (.bytes []) ∧
    Answers (.dispatch .serial serialFrame1) served (.bytes [0x01, 0x03, 0x02, 0x00, 0xDE, 0x1C, 0x38]) :=
  ⟨served_loaded, rfl, rfl⟩

theorem witness_PositiveResponseCarriesTheTableEntry :
    Loaded served ∧ EsaSet served 0x01 ∧ Accepts served serialFrame1 ∧ Accepts served streamFrame1 ∧
    parse .serial serialFrame1 = .ok serialRequest1 ∧ (validate serialRequest1 0x01).ok = true ∧
    parse .streaming streamFrame1 = .ok (.streaming 1 6 ⟨0x01, 0x03, 1, 1, streamFrame1⟩) ∧
    ∃ e ∈ served.table, e.start = (requestFields serialRequest1).startRegister ∧
      e.count = (requestFields serialRequest1).registerCount :=
  ⟨served_loaded, rfl, served_accepts _, served_accepts _, rfl, by decide, rfl,
    ⟨⟨1, 1, [0x00, 0xDE]⟩, by decide, rfl, rfl⟩⟩

theorem witness_ResponsesAreBounded :
    Answers (.buildPos .serial 0x01 0x03 [0x00, 0xDE]) served (.bytes [0x01, 0x03, 0x02, 0x00, 0xDE, 0x1C, 0x38]) :=
  rfl

theorem witness_UnitOperationsNeedNoSetUp :
    wellFormed (.decode 0xB002 []) = true ∧ (∀ start count, Instr.decode 0xB002 [] ≠ .lookup start count) ∧
    (∀ tr raw, Instr.decode 0xB002 [] ≠ .dispatch tr raw) ∧ (encode (.decode 0xB002 [])).format = .opSel4 ∧
    (∀ b, Instr.decode 0xB002 [] = .parseS b ∨ Instr.decode 0xB002 [] = .parseR b → Accepts State.reset b) ∧
    wellFormed (.parseS (rep 0 16)) = true ∧ Accepts (bounded served) (rep 0 16) :=
  ⟨by decide, by simp, by simp, rfl, by simp, by decide, bounded_accepts.1⟩

theorem witness_RegisterCountFollowsTheWidth :
    Answers (.widthOf 0x2000) served (.width 1) ∧
    Answers (.widthOf 0xB100) served (.error (.invalidDataType 0xB100)) ∧
    State.reset.loaded = false ∧ tagOfWord 0xB0FF = some (.string 255) ∧
    (image defaultConfig (.string 255) (.string (rep 0x41 255))).isSome = true ∧
    (image defaultConfig .uint8 (.int 222)).isSome = true := ⟨rfl, rfl, rfl, by decide, by decide, by decide⟩

end Sys2Proof.Tests
end

section
/-! O8: the result of an instruction depends on its operands, ESA, LOADED, TABLE and the parameters
alone. Every shared operation of `Machine/Ops` is shown once to answer alike in two states that agree on
these (`SameAnswer`); each arm of exec is one of them. -/

namespace Sys2Proof.Machine

open Sys2Proof

section
variable {s₁ s₂ : State}

/-- Two answers, given from s₁ and from s₂, that the host cannot tell apart: one result is delivered in
both, and the states written before that agree; or both are the same refusal. -/
inductive SameAnswer (s₁ s₂ : State) : Answer → Answer → Prop where
  | delivers (r : Result) {u₁ u₂ : State} (same : SamePersistent u₁ u₂)
      (results₁ : u₁.results = s₁.results) (results₂ : u₂.results = s₂.results) :
      SameAnswer s₁ s₂ (answer r u₁) (answer r u₂)
  | refused (x : Refusal) : SameAnswer s₁ s₂ (.refused x) (.refused x)

/-- A next state is matched by a next state that agrees with it, with the same result delivered. -/
theorem SameAnswer.next {a b : Answer} (h : SameAnswer s₁ s₂ a b) {t₁ : State} (ha : a = .next t₁) :
    ∃ t₂ r, b = .next t₂ ∧ SamePersistent t₁ t₂ ∧
      t₁.results = s₁.results ++ [r] ∧ t₂.results = s₂.results ++ [r] := by
  cases h with
  | delivers r same results₁ results₂ =>
    obtain rfl := answer_next ha
    exact ⟨_, r, rfl, same, by simp [results₁], by simp [results₂]⟩
  | refused x => cases ha

/-- A refusal is matched by the same refusal. -/
theorem SameAnswer.refused_eq {a b : Answer} (h : SameAnswer s₁ s₂ a b) {x : Refusal}
    (ha : a = .refused x) : b = .refused x := by
  cases h with
  | delivers => cases ha
  | refused => exact ha

/-- Delivering a result at once. -/
theorem answer_sameAnswer (r : Result) (h : SamePersistent s₁ s₂) :
    SameAnswer s₁ s₂ (answer r s₁) (answer r s₂) := .delivers r h rfl rfl

theorem answerPositive_sameAnswer (link : Link) (addr func : Byte) (p : List Byte)
    (h : SamePersistent s₁ s₂) :
    SameAnswer s₁ s₂ (answerPositive link addr func p s₁) (answerPositive link addr func p s₂) := by
  unfold answerPositive
  split
  · exact answer_sameAnswer _ h
  · exact .refused _

theorem runCodec_sameAnswer (tag : Word) (use : TagUse) (h : SamePersistent s₁ s₂) :
    SameAnswer s₁ s₂ (runCodec tag use s₁) (runCodec tag use s₂) := by
  obtain ⟨-, -, -, config_eq⟩ := id h
  simp only [runCodec, config_eq]
  split
  · exact answer_sameAnswer _ h
  · split
    · exact answer_sameAnswer _ h
    · split
      · exact answer_sameAnswer _ h
      · exact .refused _
    · split
      · exact answer_sameAnswer _ h
      · exact .refused _

theorem runParser_sameAnswer (tr : Transport) (b : List Byte) (h : SamePersistent s₁ s₂) :
    SameAnswer s₁ s₂ (runParser tr b s₁) (runParser tr b s₂) := by
  obtain ⟨-, -, -, config_eq⟩ := id h
  simp only [runParser, config_eq]
  split
  · exact .refused _
  · split <;> exact answer_sameAnswer _ h

theorem serveValid_sameAnswer (r : Request) (h : SamePersistent s₁ s₂) :
    SameAnswer s₁ s₂ (serveValid r s₁) (serveValid r s₂) := by
  obtain ⟨-, -, table_eq, -⟩ := id h
  simp only [serveValid, table_eq]
  split
  · exact answerPositive_sameAnswer _ _ _ _ h
  · exact answer_sameAnswer _ h

theorem serveRequest_sameAnswer (r : Request) (expected : Byte) (h : SamePersistent s₁ s₂) :
    SameAnswer s₁ s₂ (serveRequest r expected s₁) (serveRequest r expected s₂) := by
  obtain ⟨-, -, -, config_eq⟩ := id h
  simp only [serveRequest, config_eq]
  split
  · exact serveValid_sameAnswer _ h
  · exact answer_sameAnswer _ h

theorem serve_sameAnswer (tr : Transport) (raw : List Byte) (h : SamePersistent s₁ s₂) :
    SameAnswer s₁ s₂ (serve tr raw s₁) (serve tr raw s₂) := by
  obtain ⟨esa_eq, loaded_eq, -, config_eq⟩ := id h
  simp only [serve, esa_eq, loaded_eq, config_eq]
  split
  · exact .refused _
  · split
    · exact .refused _
    · split
      · exact .refused _
      · split
        · exact answer_sameAnswer _ h
        · exact serveRequest_sameAnswer _ _ h

theorem execLookup_sameAnswer (start count : Word) (h : SamePersistent s₁ s₂) :
    SameAnswer s₁ s₂ (execLookup start count s₁) (execLookup start count s₂) := by
  obtain ⟨-, loaded_eq, table_eq, -⟩ := id h
  simp only [execLookup, loaded_eq, table_eq]
  split
  · exact .refused _
  · exact answer_sameAnswer _ h

/-- LOAD: the two states agree on the table written, too. -/
theorem tableLoad_sameAnswer (es : List Entry) (h : SamePersistent s₁ s₂) :
    SameAnswer s₁ s₂ (tableLoad es s₁) (tableLoad es s₂) := by
  obtain ⟨esa_eq, loaded_eq, -, config_eq⟩ := h
  simp only [tableLoad, loaded_eq]
  split
  · exact .refused _
  · split
    · exact .refused _
    · exact .delivers _ ⟨esa_eq, rfl, rfl, config_eq⟩ rfl rfl

/-- SETESA: the two states agree on the address written, too. -/
theorem execSetEsa_sameAnswer (addr : Byte) (h : SamePersistent s₁ s₂) :
    SameAnswer s₁ s₂ (execSetEsa addr s₁) (execSetEsa addr s₂) := by
  obtain ⟨-, loaded_eq, table_eq, config_eq⟩ := h
  exact .delivers _ ⟨rfl, loaded_eq, table_eq, config_eq⟩ rfl rfl

/-- Every instruction answers alike in two states that agree on the persistent triple and the
parameters. The cases are the shared operations that the arms of exec call. -/
theorem exec_sameAnswer (i : Instr) (h : SamePersistent s₁ s₂) :
    SameAnswer s₁ s₂ (exec i s₁) (exec i s₂) := by
  cases i
  case streamRead03 | streamRead04 | serialRead03 | serialRead04 | dispatch =>
    simp only [exec, execStreamRead03, execStreamRead04, execSerialRead03, execSerialRead04, execDispatch]
    exact serve_sameAnswer _ _ h
  case streamPos | serialPos | buildPos => exact answerPositive_sameAnswer _ _ _ _ h
  case tagBool | tagInt8 | tagUint8 | tagInt16 | tagUint16 | tagInt32 | tagUint32 | tagInt64 |
      tagUint64 | tagReal32 | tagReal64 | tagString | widthOf | decode | encode =>
    simp only [exec, execTagBool, execTagInt8, execTagUint8, execTagInt16, execTagUint16, execTagInt32,
      execTagUint32, execTagInt64, execTagUint64, execTagReal32, execTagReal64, execTagString,
      execWidthOf, execDecode, execEncode]
    exact runCodec_sameAnswer _ _ h
  case parseS | parseR => exact runParser_sameAnswer _ _ h
  case lookup => exact execLookup_sameAnswer _ _ h
  case load => exact tableLoad_sameAnswer _ h
  case setEsa => exact execSetEsa_sameAnswer _ h
  case streamNeg | serialNeg | buildNeg | exc01 | exc02 | exc03 | exc04 | exc05 | exc06 | exc07 |
      exc08 | exc0A | exc0B | crc16 | validate =>
    exact answer_sameAnswer _ h

end

/-- Settles O8: two states that agree on the persistent triple and the parameters are answered alike. -/
theorem resultsDependOnPersistentStateOnly : Obligations.ResultsDependOnPersistentStateOnly := by
  intro i s₁ s₂ h
  exact ⟨fun _ => (exec_sameAnswer i h).next, fun _ => (exec_sameAnswer i h).refused_eq⟩

end Sys2Proof.Machine
end

section
/-! O37: LOAD of a list it admits completes with the table of that list, and LOOKUP answers from the
table; the start-up list of `TABLE_KEYS` and `TABLE_VALUES` is such a list, and its table holds the
payload of each of its keys and nothing else. -/

namespace Sys2Proof.Machine

open Sys2Proof

/-- With no key twice in a list, at most one entry has the key of e. -/
theorem countP_sameKey_le_one {es : List Entry} (hn : (es.map fun e => (e.start, e.count)).Nodup)
    (e : Entry) : es.countP (sameKey e) ≤ 1 := by
  have h := List.nodup_iff_count_le_one.1 hn (e.start, e.count)
  rwa [List.count, List.countP_map] at h

/-- LOAD of well-formed entries with no key twice completes in an engine that is not loaded (R235). -/
theorem exec_load_next {es : List Entry} {s : State} (hl : s.loaded = false)
    (hok : ∀ e ∈ es, entryOk e = true) (hn : (es.map fun e => (e.start, e.count)).Nodup) :
    exec (.load es) s = .next (deliver { s with table := tableOf es, loaded := true } .done) := by
  have hr : loadRefusal es es = none :=
    (loadRefusal_none_iff es es).2 fun e he => ⟨hok e he, countP_sameKey_le_one hn e⟩
  simp [exec, execLoad, tableLoad, hl, hr, answer]

/-- LOOKUP in a loaded engine answers what the table holds at the key (R231). -/
theorem lookup_answers {s : State} {p : Option (List Byte)} {start count : Word}
    (hl : s.loaded = true) (hp : tableRead s.table start count = p) :
    Answers (.lookup start count) s (.payload p) := by
  simp [Answers, exec, execLookup, hl, hp, answer, deliver]

/-- `TABLE_VALUES` gives every key a payload of 2 x count bytes (R11). -/
theorem payload_length_of_mem_zip {ks : List TableKey} {values : List (List Byte)}
    (h : values.map List.length = ks.map fun k => 2 * k.count.toNat) {kv : TableKey × List Byte}
    (hkv : kv ∈ ks.zip values) : kv.2.length = 2 * kv.1.count.toNat := by
  rw [← List.forall₂_eq_eq_eq, List.forall₂_map_left_iff, List.forall₂_map_right_iff] at h
  exact List.forall₂_zip h.flip hkv

/-- The start-up list completes, its keys are served and every other key misses. Of the parameters only
`TABLE_KEYS` and `TABLE_VALUES` must be well-formed. -/
theorem load_startupEntries {s : State} {values : List (List Byte)} (hl : s.loaded = false)
    (hv : s.config.tableValues = some values)
    (hn : (s.config.tableKeys.map fun k => (k.start, k.count)).Nodup)
    (hlen : values.map List.length = s.config.tableKeys.map fun k => 2 * k.count.toNat)
    (hc : ∀ k ∈ s.config.tableKeys, 1 ≤ k.count.toNat ∧ k.count.toNat ≤ 127) :
    ∃ t, exec (.load (startupEntries s.config)) s = .next t ∧
      (∀ kv ∈ s.config.tableKeys.zip values,
        Answers (.lookup kv.1.start kv.1.count) t (.payload (some kv.2))) ∧
      ∀ start count, (start, count) ∉ s.config.tableKeys.map (fun k => (k.start, k.count)) →
        Answers (.lookup start count) t (.payload none) := by
  have entries : startupEntries s.config = List.zipWith keyEntry s.config.tableKeys values := by
    simp [startupEntries, hv]
  have keys := keyEntries_keys s.config.tableKeys values (by simpa using (congrArg List.length hlen).symm)
  rw [← entries] at keys
  have ok : ∀ e ∈ startupEntries s.config, entryOk e = true := by
    intro e he
    rw [entries] at he
    obtain ⟨kv, hkv, rfl⟩ := (mem_keyEntries _ _ _).1 he
    obtain ⟨h1, h127⟩ := hc kv.1 (List.of_mem_zip hkv).1
    exact (entryOk_iff _).2 ⟨h1, h127, payload_length_of_mem_zip hlen hkv⟩
  refine ⟨_, exec_load_next hl ok (by rwa [keys]), fun kv hkv => ?_, fun start count hmiss => ?_⟩
  · have mem : keyEntry kv.1 kv.2 ∈ startupEntries s.config := by
      rw [entries]
      exact (mem_keyEntries _ _ _).2 ⟨kv, hkv, rfl⟩
    exact lookup_answers rfl (tableRead_tableOf_mem _ (by rwa [keys]) _ mem)
  · refine lookup_answers rfl (tableRead_tableOf_none _ _ _ fun e he hk => hmiss ?_)
    rw [← keys]
    exact List.mem_map.2 ⟨e, he, Prod.ext hk.1 hk.2⟩

theorem defaultTableKeys_length : defaultTableKeys.length = 21 := by decide

/-- The 21 rows of R70 name no key twice. -/
theorem defaultTableKeys_nodup : (defaultTableKeys.map fun k => (k.start, k.count)).Nodup := by decide

/-- The counts of the rows of R70 are in LOAD's range. -/
theorem defaultTableKeys_count : ∀ k ∈ defaultTableKeys, 1 ≤ k.count.toNat ∧ k.count.toNat ≤ 127 := by
  decide

/-- Settles O37: the start-up list is one that LOAD admits, for any well-formed table parameters and for
the default keys in particular. -/
theorem defaultTableServesItsKeys : Obligations.DefaultTableServesItsKeys := by
  constructor
  · intro s values hl hwf hv hc
    simp only [configWf, tableValuesWf, hv, Bool.and_eq_true, decide_eq_true_eq] at hwf
    obtain ⟨-, hn, hlen⟩ := hwf
    obtain ⟨t, ht, hit, -⟩ := load_startupEntries hl hv hn hlen hc
    exact ⟨t, ht, hit⟩
  · intro s values hl hk hv hlen
    have len : values.length = 21 := by simpa using congrArg List.length hlen
    obtain ⟨t, ht, hit, miss⟩ := load_startupEntries hl hv (by rw [hk]; exact defaultTableKeys_nodup)
      (by rw [hk, hlen]; decide) (by rw [hk]; exact defaultTableKeys_count)
    rw [hk] at hit miss
    refine ⟨t, ht, fun i => ?_, fun p hp => miss _ _ ?_⟩
    · change Answers (.lookup ((defaultTableKeys.map (·.start)).getD i 0)
        ((defaultTableKeys.map (·.count)).getD i 0)) t _
      have hi : i.val < (defaultTableKeys.zip values).length := by simp [len, defaultTableKeys_length]
      have hkv := hit _ (List.getElem_mem hi)
      simpa [List.getElem_zip, defaultTableKeys_length, len] using hkv
    · revert p
      decide

end Sys2Proof.Machine
end

section
/-! O2, O3, O5 and O6: what a step and an instruction keep. Each statement is read off the three things
an instruction can do (`exec_next_cases`): deliver a result, load the table, or set ESA. -/

namespace Sys2Proof.Machine

open Sys2Proof

/-! The invariant reads TABLE, LOADED and the parameters alone. -/

@[simp] theorem inv_deliver (s : State) (r : Result) : Inv (deliver s r) ↔ Inv s := Iff.rfl

@[simp] theorem inv_setEsa (s : State) (e : Option Byte) : Inv { s with esa := e } ↔ Inv s := Iff.rfl

@[simp] theorem inv_setInbox (s : State) (q : List Command) : Inv { s with inbox := q } ↔ Inv s := Iff.rfl

/-- The table that LOAD builds from a list it does not refuse is canonical and well-formed (R33, R235). -/
theorem wf_tableOf_of_not_refused {es : List Entry} (h : loadRefusal es es = none) :
    Memory.wf (tableOf es) = true :=
  Memory.wf_tableOf es fun e he => ((loadRefusal_none_iff es es).1 h e he).1

theorem exec_keeps_inv {i : Instr} {s t : State} (hs : Inv s) (h : exec i s = .next t) : Inv t := by
  rcases exec_next_cases h with ⟨r, rfl, -, -⟩ | ⟨es, -, -, accepted, rfl⟩ | ⟨a, -, rfl⟩
  · simpa using hs
  · obtain ⟨-, -, config_wf⟩ := hs
    exact ⟨wf_tableOf_of_not_refused accepted, by simp, config_wf⟩
  · simpa using hs

/-- Settles O2: an idle step changes nothing, and the instruction a step runs keeps the invariant. -/
theorem everyStepKeepsTheInvariant : Obligations.EveryStepKeepsTheInvariant := by
  intro s t hs h
  rcases step_next_cases h with ⟨-, rfl⟩ | ⟨c, rest, i, -, -, hexec⟩
  · exact hs
  · exact exec_keeps_inv ((inv_setInbox s rest).2 hs) hexec

/-- Settles O3: the step runs the command at the head of the inbox, and a command runs what it decodes
to. -/
theorem stepRunsTheDecodedInstruction : Obligations.StepRunsTheDecodedInstruction := by
  intro s c rest i hinbox hdecode
  rw [step_cons hinbox, runCommand_of_decode hdecode]

/-- A second LOAD is refused (R236), so no instruction that completes touches a loaded table. -/
theorem exec_keeps_loaded_table {i : Instr} {s t : State} (h : exec i s = .next t)
    (loaded : s.loaded = true) : t.loaded = true ∧ t.table = s.table := by
  rcases exec_next_cases h with ⟨r, rfl, -, -⟩ | ⟨es, -, not_loaded, -, -⟩ | ⟨a, -, rfl⟩
  · exact ⟨loaded, rfl⟩
  · simp [loaded] at not_loaded
  · exact ⟨loaded, rfl⟩

/-- ESA is written by SETESA alone, which sets it (R31). -/
theorem exec_keeps_esa_set {i : Instr} {s t : State} (h : exec i s = .next t)
    (esa_set : s.esa.isSome = true) : t.esa.isSome = true := by
  rcases exec_next_cases h with ⟨r, rfl, -, -⟩ | ⟨es, -, -, -, rfl⟩ | ⟨a, -, rfl⟩
  · exact esa_set
  · exact esa_set
  · rfl

theorem phase_eq_serve_iff (s : State) : phase s = .serve ↔ s.loaded = true := by
  cases hl : s.loaded <;> simp [phase, hl]

/-- Settles O5: the phase is SERVE exactly while LOADED = 1, so the third part is the first one again. -/
theorem lifecycleNeverGoesBack : Obligations.LifecycleNeverGoesBack := by
  intro s t h
  simp only [phase_eq_serve_iff]
  rcases step_next_cases h with ⟨-, rfl⟩ | ⟨c, rest, i, -, -, hexec⟩
  · exact ⟨fun loaded => ⟨loaded, rfl⟩, id, id⟩
  · have table_kept := exec_keeps_loaded_table hexec
    have esa_kept := exec_keeps_esa_set hexec
    exact ⟨table_kept, esa_kept, fun loaded => (table_kept loaded).1⟩

/-- Settles O6: what is delivered changes the results alone; LOAD and SETESA are the exceptions named. -/
theorem onlyLoadAndSetEsaWriteState : Obligations.OnlyLoadAndSetEsaWriteState := by
  intro i s t h
  rcases exec_next_cases h with ⟨r, rfl, -, -⟩ | ⟨es, rfl, -, -, rfl⟩ | ⟨a, rfl, rfl⟩
  · exact ⟨rfl, rfl, ⟨r, rfl⟩, fun _ => ⟨rfl, rfl, fun _ _ => rfl⟩, fun _ => rfl⟩
  · exact ⟨rfl, rfl, ⟨.done, rfl⟩, fun not_load => absurd rfl (not_load es), fun _ => rfl⟩
  · exact ⟨rfl, rfl, ⟨.done, rfl⟩, fun _ => ⟨rfl, rfl, fun _ _ => rfl⟩,
      fun not_setEsa => absurd rfl (not_setEsa a)⟩

end Sys2Proof.Machine
end

section
/-! O54: BUILD_POS delivers the frame of its operands, whose octets are counted format by format. -/

namespace Sys2Proof.Machine

open Sys2Proof

theorem streamPositive_length (tid : Word) (addr func : Byte) (p : List Byte) :
    (responseBytes (.positive (.streaming tid) addr func p)).length = 9 + p.length := by
  simp only [responseBytes, streamFrame, List.length_append, enc16_length, List.length_cons,
    List.length_nil]
  omega

theorem serialPositive_length (addr func : Byte) (p : List Byte) :
    (responseBytes (.positive .serial addr func p)).length = 5 + p.length := by
  simp only [responseBytes, serialFrame, List.length_append, enc16_length, List.length_cons,
    List.length_nil]
  omega

/-- When BUILD_POS completes with bytes, its payload has a BYTECOUNT (R258) and the bytes are the frame. -/
theorem answers_buildPos {link : Link} {addr func : Byte} {p out : List Byte} {s : State}
    (h : Answers (.buildPos link addr func p) s (.bytes out)) :
    p.length ≤ 255 ∧ out = responseBytes (.positive link addr func p) := by
  obtain ⟨short, delivered⟩ := answerPositive_next h
  have results_eq := congrArg State.results delivered
  exact ⟨short, by simpa using results_eq⟩

/-- Settles O54: the frame is 9 or 5 octets longer than its payload, which has at most 255. -/
theorem responsesAreBounded : Obligations.ResponsesAreBounded := by
  intro s link addr func p out h
  obtain ⟨short, rfl⟩ := answers_buildPos h
  cases link with
  | streaming tid =>
    have len := streamPositive_length tid addr func p
    exact ⟨len, by omega⟩
  | serial =>
    have len := serialPositive_length addr func p
    exact ⟨len, by omega⟩

end Sys2Proof.Machine
end

section
/-! Octets at an offset, for the decoder and the parsers: what stands at an offset of a written-out frame,
a buffer put together again from what stands at its offsets, and bit 7 of a function octet. -/

namespace Sys2Proof.Machine

open Sys2Proof

@[simp] theorem byteAt_cons_zero (x : Byte) (b : List Byte) : byteAt (x :: b) 0 = x := rfl

@[simp] theorem byteAt_cons_succ (x : Byte) (b : List Byte) (i : Nat) :
    byteAt (x :: b) (i + 1) = byteAt b i := rfl

@[simp] theorem be16_cons_cons_zero (hi lo : Byte) (b : List Byte) :
    be16 (hi :: lo :: b) 0 = wordOf hi lo := rfl

@[simp] theorem be16_cons_succ (x : Byte) (b : List Byte) (i : Nat) :
    be16 (x :: b) (i + 1) = be16 b i := rfl

@[simp] theorem wordOf_zero_left (lo : Byte) : wordOf 0#8 lo = lo.setWidth 16 := by
  apply BitVec.eq_of_toNat_eq
  have := lo.isLt
  simp only [wordOf_toNat, BitVec.toNat_ofNat, BitVec.toNat_setWidth]
  omega

/-- A field is read back where it was written (R15). -/
@[simp] theorem be16_append_enc16 (b : List Byte) (v : Word) : be16 (b ++ enc16 v) b.length = v := by
  simp [be16, byteAt, enc16]

theorem byteAt_append {a b : List Byte} {i : Nat} (h : i < a.length) : byteAt (a ++ b) i = byteAt a i := by
  simp [byteAt, List.getElem?_append_left h]

theorem be16_append {a b : List Byte} {i : Nat} (h : i + 1 < a.length) : be16 (a ++ b) i = be16 a i := by
  rw [be16, byteAt_append (Nat.lt_of_succ_lt h), byteAt_append h, be16]

theorem drop_eq_byteAt_cons {b : List Byte} {i : Nat} (h : i < b.length) :
    b.drop i = byteAt b i :: b.drop (i + 1) := by
  rw [List.drop_eq_getElem_cons h, byteAt, List.getD_eq_getElem b 0 h]

theorem drop_eq_enc16_append {b : List Byte} {i : Nat} (h : i + 1 < b.length) :
    b.drop i = enc16 (be16 b i) ++ b.drop (i + 2) := by
  rw [drop_eq_byteAt_cons (Nat.lt_of_succ_lt h), drop_eq_byteAt_cons h, be16, enc16_wordOf]
  rfl

theorem bit7_iff (g : Byte) : g.getLsbD 7 = true ↔ 128 ≤ g.toNat := by
  have h : g.getLsbD 7 = g.msb := rfl
  rw [h, BitVec.msb_eq_decide, decide_eq_true_eq]

theorem funcOctet_toNat (func : BitVec 7) : (funcOctet func).toNat = 128 + func.toNat := by
  rw [funcOctet, BitVec.toNat_append, ← Nat.shiftLeft_add_eq_or_of_lt func.isLt]
  rfl

@[simp] theorem funcOctet_bit7 (func : BitVec 7) : (funcOctet func).getLsbD 7 = true := by
  rw [bit7_iff, funcOctet_toNat]
  omega

@[simp] theorem extractLsb'_funcOctet (func : BitVec 7) : (funcOctet func).extractLsb' 0 7 = func := by
  apply BitVec.eq_of_toNat_eq
  rw [BitVec.extractLsb'_toNat, funcOctet_toNat, Nat.shiftRight_zero]
  omega

/-- A function octet with bit 7 set is that of a negative response (R94, R96). -/
theorem funcOctet_extractLsb' {g : Byte} (h : g.getLsbD 7 = true) : funcOctet (g.extractLsb' 0 7) = g := by
  rw [bit7_iff] at h
  apply BitVec.eq_of_toNat_eq
  rw [funcOctet_toNat, BitVec.extractLsb'_toNat, Nat.shiftRight_zero]
  omega

end Sys2Proof.Machine
end

section
/-! O10: reading back what the encoder writes, field by field: the frames, the operands, the entries of
LOAD. -/

namespace Sys2Proof.Machine

open Sys2Proof

/-! The frame formats. -/

theorem decodeStreamReq_read03 (tid : Word) (addr : Byte) (start count : Word) (extra : List Byte) :
    decodeStreamReq (streamReqBytes tid addr 0x03 start count extra) =
      .streamRead03 tid addr start count extra := by
  simp [decodeStreamReq, streamReqBytes, enc16]

theorem decodeStreamReq_read04 (tid : Word) (addr : Byte) (start count : Word) (extra : List Byte) :
    decodeStreamReq (streamReqBytes tid addr 0x04 start count extra) =
      .streamRead04 tid addr start count extra := by
  simp [decodeStreamReq, streamReqBytes, enc16]

theorem decodeSerialReq_read03 (addr : Byte) (start count crc : Word) :
    decodeSerialReq (serialReqBytes addr 0x03 start count crc) = .serialRead03 addr start count crc := by
  simp [decodeSerialReq, serialReqBytes, enc16]

theorem decodeSerialReq_read04 (addr : Byte) (start count crc : Word) :
    decodeSerialReq (serialReqBytes addr 0x04 start count crc) = .serialRead04 addr start count crc := by
  simp [decodeSerialReq, serialReqBytes, enc16]

theorem decodeStreamPos_encode (tid len : Word) (addr func bc : Byte) (data : List Byte) :
    decodeStreamPos (encode (.streamPos tid len addr func bc data)).bytes =
      some (.streamPos tid len addr func bc data) := by
  simp [encode, decodeStreamPos, enc16]

theorem decodeStreamNeg_encode (tid : Word) (addr : Byte) (func : BitVec 7) (exc : Byte) :
    decodeStreamNeg (encode (.streamNeg tid addr func exc)).bytes = some (.streamNeg tid addr func exc) := by
  simp [encode, decodeStreamNeg, enc16]

/-- The CRC16 field stands behind data of any length: it is found from the end (R95). -/
theorem decodeSerialPos_encode (addr func bc : Byte) (data : List Byte) (crc : Word) :
    decodeSerialPos (encode (.serialPos addr func bc data crc)).bytes =
      some (.serialPos addr func bc data crc) := by
  simp [encode, decodeSerialPos]

theorem decodeSerialNeg_encode (addr : Byte) (func : BitVec 7) (exc : Byte) (crc : Word) :
    decodeSerialNeg (encode (.serialNeg addr func exc crc)).bytes = some (.serialNeg addr func exc crc) := by
  simp [encode, decodeSerialNeg, enc16]

/-! Operands. -/

@[simp] theorem transportOf_transportBit (t : Transport) : transportOf (transportBit t) = some t := by
  cases t <;> rfl

@[simp] theorem decodeLink_encodeLink (link : Link) (r : List Byte) :
    decodeLink (encodeLink link ++ r) = some (link, r) := by
  cases link <;> simp [encodeLink, decodeLink, enc16]

/-- A magnitude is written in as many octets as hold it. -/
theorem beNat_natBytes (n : Nat) : beNat (natBytes n) = n := by
  refine beNat_beBytes _ _ ?_
  calc n < 2 ^ (n.log2 + 1) := Nat.lt_log2_self
    _ ≤ 2 ^ (8 * (n.log2 / 8 + 1)) := Nat.pow_le_pow_right (by decide) (by omega)
    _ = 256 ^ (n.log2 / 8 + 1) := by rw [Nat.pow_mul]

@[simp] theorem decodeTyped_encodeTyped (v : TypedValue) : decodeTyped (encodeTyped v) = some v := by
  cases v with
  | bool v => cases v <;> rfl
  | int v => cases v <;> simp [encodeTyped, decodeTyped, beNat_natBytes]
  | real32 p => simp [encodeTyped, decodeTyped, beNat_beBytes 4 _ p.isLt]
  | real64 p => simp [encodeTyped, decodeTyped, beNat_beBytes 8 _ p.isLt]
  | string chars => rfl

@[simp] theorem decodeUse_encodeUse (use : TagUse) : decodeUse (encodeUse use) = some use := by
  cases use <;> simp [encodeUse, decodeUse]

theorem decode_errCodeCommand (code : Byte) (link : Link) (addr func : Byte) :
    decode (errCodeCommand code link addr func) = .ok (exceptionRow code link addr func) := by
  simp [errCodeCommand, decode, decodeErrCode, orReject]

theorem decode_tagCommand (kind : BitVec 4) (n : BitVec 12) (use : TagUse) :
    decode (tagCommand kind n use) = .ok (tagRow (tagWord kind n) use) := by
  simp [tagCommand, decode, decodeTag, enc16, orReject]

theorem tagRow_string (n : BitVec 12) (use : TagUse) : tagRow (tagWord 0xB#4 n) use = .tagString n use := by
  have length_field : (tagWord 0xB#4 n).extractLsb' 0 12 = n :=
    BitVec.eq_of_toNat_eq (tagLength_tagWord 0xB#4 n)
  simp [tagRow, tagKind_tagWord, length_field]

/-- A selector 0x0 to 0xC whose operands are read is read. -/
theorem decode_operationCommand {sel : Byte} {operands : List Byte} {i : Instr} (hs : sel.toNat < 13)
    (h : decodeOperands sel.toNat operands = some i) : decode (operationCommand sel operands) = .ok i := by
  have narrow : ¬ 16 ≤ sel.toNat := by omega
  simp [operationCommand, decode, decodeOperation, h, narrow, Nat.not_le.2 hs]

theorem decodeValidate_encodeRequest (r : Request) (expected : Byte) :
    decodeValidate (encodeRequest r expected) = some (.validate r expected) := by
  cases r <;> simp [encodeRequest, decodeValidate, requestFields, enc16]

/-- The number of octets bounds the number of entries, so `decodeEntries` has fuel enough. -/
theorem length_le_flatMap_encodeEntry (es : List Entry) : es.length ≤ (es.flatMap encodeEntry).length := by
  induction es with
  | nil => simp
  | cons e es ih =>
    simp only [List.flatMap_cons, List.length_append, List.length_cons, encodeEntry, enc16_length]
    omega

theorem decodeEntries_flatMap_encodeEntry (es : List Entry) (fuel : Nat) (hf : es.length ≤ fuel)
    (hp : ∀ e ∈ es, e.payload.length < 65536) :
    decodeEntries fuel (es.flatMap encodeEntry) = some es := by
  induction es generalizing fuel with
  | nil => cases fuel <;> rfl
  | cons e es ih =>
    obtain ⟨short, shorts⟩ := List.forall_mem_cons.1 hp
    cases fuel with
    | zero => simp at hf
    | succ fuel =>
      have tail := ih fuel (by simpa using hf) shorts
      simp [encodeEntry, enc16, decodeEntries, tail, Nat.mod_eq_of_lt short]

theorem decode_encode {i : Instr} (h : encodable i = true) : decode (encode i) = .ok i := by
  cases i
  case streamRead03 => exact congrArg Except.ok (decodeStreamReq_read03 ..)
  case streamRead04 => exact congrArg Except.ok (decodeStreamReq_read04 ..)
  case serialRead03 => exact congrArg Except.ok (decodeSerialReq_read03 ..)
  case serialRead04 => exact congrArg Except.ok (decodeSerialReq_read04 ..)
  case streamPos => exact congrArg (orReject _) (decodeStreamPos_encode ..)
  case streamNeg => exact congrArg (orReject _) (decodeStreamNeg_encode ..)
  case serialPos => exact congrArg (orReject _) (decodeSerialPos_encode ..)
  case serialNeg => exact congrArg (orReject _) (decodeSerialNeg_encode ..)
  case exc01 | exc02 | exc03 | exc04 | exc05 | exc06 | exc07 | exc08 | exc0A | exc0B =>
    exact decode_errCodeCommand ..
  case tagBool | tagInt8 | tagUint8 | tagInt16 | tagUint16 | tagInt32 | tagUint32 | tagInt64 |
      tagUint64 | tagReal32 | tagReal64 => exact decode_tagCommand ..
  case tagString n use => exact (decode_tagCommand ..).trans (congrArg Except.ok (tagRow_string n use))
  case crc16 | parseS | parseR | setEsa => rfl
  case validate r expected =>
    exact decode_operationCommand (by decide) (decodeValidate_encodeRequest r expected)
  case load es =>
    have entries := decodeEntries_flatMap_encodeEntry es _ (length_le_flatMap_encodeEntry es)
      (by simpa [encodable] using h)
    exact decode_operationCommand (by decide) (congrArg (Option.map Instr.load) entries)
  case widthOf | decode | encode | lookup | buildPos | buildNeg | dispatch =>
    exact decode_operationCommand (by decide) (by simp [decodeOperands, enc16])

/-- A list LOAD accepts has payloads of at most 254 bytes (R235). -/
theorem encodable_of_wellFormed {i : Instr} (h : wellFormed i = true) : encodable i = true := by
  cases i
  case load es =>
    simp only [wellFormed, entriesWf, Bool.and_eq_true, List.all_eq_true, entryOk_iff] at h
    simp only [encodable, List.all_eq_true, decide_eq_true_eq]
    intro e he
    obtain ⟨-, count_le, payload_len⟩ := h.1 e he
    omega
  all_goals rfl

/-- Settles O10, format by format; the only instructions not spelled are LOAD lists no rule admits. -/
theorem decodeOfEncodeIsTheInstruction : Obligations.DecodeOfEncodeIsTheInstruction :=
  ⟨fun _ => decode_encode, fun _ => encodable_of_wellFormed⟩

end Sys2Proof.Machine
end

section
/-! O11: a frame that decodes to a row of its format is put together again from the row's fields. -/

namespace Sys2Proof.Machine

open Sys2Proof

/-- A buffer with PID = 0x0000 is the Streaming frame of its TID, its LEN and what follows (R93). -/
theorem streamFrame_eq {b : List Byte} (hlen : 6 ≤ b.length) (pid : be16 b 2 = 0) :
    streamFrame (be16 b 0) (be16 b 4) (b.drop 6) = b := by
  have fields : b.drop 0 = enc16 (be16 b 0) ++ (enc16 (be16 b 2) ++ (enc16 (be16 b 4) ++ b.drop 6)) := by
    rw [drop_eq_enc16_append (by omega), drop_eq_enc16_append (by omega), drop_eq_enc16_append (by omega)]
  rw [pid] at fields
  exact fields.symm

/-- The fields of a Streaming request behind its LEN (R91). -/
theorem drop6_eq_request {b : List Byte} (hlen : 12 ≤ b.length) :
    b.drop 6 = [byteAt b 6, byteAt b 7] ++ enc16 (be16 b 8) ++ enc16 (be16 b 10) ++ b.drop 12 := by
  rw [drop_eq_byteAt_cons (by omega), drop_eq_byteAt_cons (by omega), drop_eq_enc16_append (by omega),
    drop_eq_enc16_append (by omega)]
  rfl

theorem streamReqBytes_eq {b : List Byte} {func : Byte} (hlen : 12 ≤ b.length) (pid : be16 b 2 = 0)
    (len : be16 b 4 = 6) (hfunc : byteAt b 7 = func) :
    streamReqBytes (be16 b 0) (byteAt b 6) func (be16 b 8) (be16 b 10) (b.drop 12) = b := by
  have frame := streamFrame_eq (by omega) pid
  rw [len, drop6_eq_request hlen, hfunc] at frame
  exact frame

theorem serialReqBytes_eq {b : List Byte} {func : Byte} (hlen : b.length = 8) (hfunc : byteAt b 1 = func) :
    serialReqBytes (byteAt b 0) func (be16 b 2) (be16 b 4) (be16 b 6) = b := by
  have fields : b.drop 0 = byteAt b 0 :: byteAt b 1 :: (enc16 (be16 b 2) ++ (enc16 (be16 b 4) ++
      (enc16 (be16 b 6) ++ b.drop 8))) := by
    rw [drop_eq_byteAt_cons (by omega), drop_eq_byteAt_cons (by omega), drop_eq_enc16_append (by omega),
      drop_eq_enc16_append (by omega), drop_eq_enc16_append (by omega)]
  rw [List.drop_of_length_le hlen.le, hfunc] at fields
  exact fields.symm

/-- The request rows of R91; every other buffer is DISPATCH of itself (R110). -/
theorem encode_decodeStreamReq (b : List Byte) :
    encode (decodeStreamReq b) = ⟨.streamReq, b⟩ ∨ decodeStreamReq b = .dispatch .streaming b := by
  unfold decodeStreamReq
  split_ifs with is03 is04
  · obtain ⟨hlen, pid, len, func⟩ := is03
    exact .inl (congrArg _ (streamReqBytes_eq hlen pid len func))
  · obtain ⟨hlen, pid, len, func⟩ := is04
    exact .inl (congrArg _ (streamReqBytes_eq hlen pid len func))
  · exact .inr rfl

/-- The request rows of R92; every other buffer is DISPATCH of itself (R110). -/
theorem encode_decodeSerialReq (b : List Byte) :
    encode (decodeSerialReq b) = ⟨.serialReq, b⟩ ∨ decodeSerialReq b = .dispatch .serial b := by
  unfold decodeSerialReq
  split_ifs with is03 is04
  · exact .inl (congrArg _ (serialReqBytes_eq is03.1 is03.2))
  · exact .inl (congrArg _ (serialReqBytes_eq is04.1 is04.2))
  · exact .inr rfl

theorem encode_decodeStreamPos {b : List Byte} {i : Instr} (h : decodeStreamPos b = some i) :
    encode i = ⟨.streamPos, b⟩ := by
  simp only [decodeStreamPos, Option.ite_none_right_eq_some, Option.some.injEq] at h
  obtain ⟨⟨hlen, pid⟩, rfl⟩ := h
  have frame := streamFrame_eq (by omega) pid
  rw [drop_eq_byteAt_cons (by omega), drop_eq_byteAt_cons (by omega), drop_eq_byteAt_cons (by omega)] at frame
  exact congrArg _ frame

theorem encode_decodeStreamNeg {b : List Byte} {i : Instr} (h : decodeStreamNeg b = some i) :
    encode i = ⟨.streamNeg, b⟩ := by
  simp only [decodeStreamNeg, Option.ite_none_right_eq_some, Option.some.injEq] at h
  obtain ⟨⟨hlen, pid, len, bit7⟩, rfl⟩ := h
  have frame := streamFrame_eq (by omega) pid
  rw [len, drop_eq_byteAt_cons (by omega), drop_eq_byteAt_cons (by omega), drop_eq_byteAt_cons (by omega),
    List.drop_of_length_le hlen.le] at frame
  rw [encode, funcOctet_extractLsb' bit7]
  exact congrArg _ frame

theorem encode_decodeSerialPos {b : List Byte} {i : Instr} (h : decodeSerialPos b = some i) :
    encode i = ⟨.serialPos, b⟩ := by
  simp only [decodeSerialPos, Option.ite_none_right_eq_some, Option.some.injEq] at h
  obtain ⟨hlen, rfl⟩ := h
  have crc_field : (b.drop 3).drop (b.length - 5) = enc16 (be16 b (b.length - 2)) := by
    rw [List.drop_drop, show 3 + (b.length - 5) = b.length - 2 by omega, drop_eq_enc16_append (by omega),
      List.drop_of_length_le (by omega), List.append_nil]
  have fields : b.drop 0 = byteAt b 0 :: byteAt b 1 :: byteAt b 2 ::
      ((b.drop 3).take (b.length - 5) ++ enc16 (be16 b (b.length - 2))) := by
    rw [← crc_field, List.take_append_drop, drop_eq_byteAt_cons (by omega), drop_eq_byteAt_cons (by omega),
      drop_eq_byteAt_cons (by omega)]
  exact congrArg _ fields.symm

theorem encode_decodeSerialNeg {b : List Byte} {i : Instr} (h : decodeSerialNeg b = some i) :
    encode i = ⟨.serialNeg, b⟩ := by
  simp only [decodeSerialNeg, Option.ite_none_right_eq_some, Option.some.injEq] at h
  obtain ⟨⟨hlen, bit7⟩, rfl⟩ := h
  have fields : b.drop 0 = byteAt b 0 :: byteAt b 1 :: byteAt b 2 :: (enc16 (be16 b 3) ++ b.drop 5) := by
    rw [drop_eq_byteAt_cons (by omega), drop_eq_byteAt_cons (by omega), drop_eq_byteAt_cons (by omega),
      drop_eq_enc16_append (by omega)]
  rw [List.drop_of_length_le hlen.le] at fields
  rw [encode, funcOctet_extractLsb' bit7]
  exact congrArg _ fields.symm

theorem orReject_ok {e : DecodeError} {o : Option Instr} {i : Instr} (h : orReject e o = .ok i) :
    o = some i := by
  cases o with
  | none => cases h
  | some j => exact congrArg some (Except.ok.inj h)

/-- Settles O11, format by format. -/
theorem encodeOfDecodedFrameIsTheFrame : Obligations.EncodeOfDecodedFrameIsTheFrame := by
  intro f b i not_errCode not_tag not_opSel h
  cases f with
  | streamReq =>
    obtain rfl := Except.ok.inj h
    exact (encode_decodeStreamReq b).imp_right fun dispatched => .inl ⟨rfl, dispatched⟩
  | serialReq =>
    obtain rfl := Except.ok.inj h
    exact (encode_decodeSerialReq b).imp_right fun dispatched => .inr ⟨rfl, dispatched⟩
  | streamPos => exact .inl (encode_decodeStreamPos (orReject_ok h))
  | streamNeg => exact .inl (encode_decodeStreamNeg (orReject_ok h))
  | serialPos => exact .inl (encode_decodeSerialPos (orReject_ok h))
  | serialNeg => exact .inl (encode_decodeSerialNeg (orReject_ok h))
  | errCode8 => exact absurd rfl not_errCode
  | tag16 => exact absurd rfl not_tag
  | opSel4 => exact absurd rfl not_opSel

end Sys2Proof.Machine
end

section
/-! O12: the decoder's tests are those of the masks. A mask works octet by octet, so a masked buffer is
compared as a list of octets. -/

namespace Sys2Proof.Machine

open Sys2Proof

theorem beNat_and (a m : List Byte) (h : a.length = m.length) :
    beNat a &&& beNat m = beNat (List.zipWith (· &&& ·) a m) := by
  induction a generalizing m with
  | nil => simp [beNat]
  | cons x a ih =>
    cases m with
    | nil => simp at h
    | cons y m =>
      have hlen : a.length = m.length := by simpa using h
      have ha := beNat_lt a
      have hm := beNat_lt m
      have hr := beNat_lt (List.zipWith (· &&& ·) a m)
      simp only [List.zipWith_cons_cons, beNat_cons, hlen, List.length_zipWith, min_self] at ha hm hr ⊢
      simp only [show 256 = 2 ^ 8 by rfl, ← pow_mul, mul_comm _ (2 ^ (8 * m.length))] at ha hm hr ⊢
      apply Nat.eq_of_testBit_eq
      intro j
      rw [Nat.testBit_and, Nat.testBit_two_pow_mul_add _ ha, Nat.testBit_two_pow_mul_add _ hm,
        Nat.testBit_two_pow_mul_add _ hr, ← ih m hlen]
      split <;> simp

theorem beNat_eq_iff {a b : List Byte} (h : a.length = b.length) : beNat a = beNat b ↔ a = b :=
  ⟨beNat_inj a b h, congrArg beNat⟩

theorem wordOf_eq_iff (hi lo : Byte) (w : Word) : wordOf hi lo = w ↔ hi = hiByte w ∧ lo = loByte w := by
  constructor
  · rintro rfl
    exact ⟨(hiByte_wordOf hi lo).symm, (loByte_wordOf hi lo).symm⟩
  · rintro ⟨rfl, rfl⟩
    exact wordOf_hiByte_loByte w

theorem take_eq_map_byteAt {b : List Byte} {n : Nat} (h : n ≤ b.length) :
    b.take n = (List.range n).map (byteAt b) := by
  apply List.ext_getElem
  · simp [h]
  · intro i hi _
    have hi' : i < b.length := by simp at hi; omega
    simp [byteAt, hi']

theorem and_0xFF (x : Byte) : x &&& 0xFF#8 = x := BitVec.and_allOnes

/-- The mask of STREAM_REQ keeps PID, LEN and FUNC (R91). -/
theorem streamMask_iff {b : List Byte} (hlen : 12 ≤ b.length) (func : Byte) :
    beNat (b.take 12) &&& 0x0000FFFFFFFF00FF00000000 = beNat [0, 0, 0, 0, 0, 6, 0, func, 0, 0, 0, 0] ↔
      be16 b 2 = 0 ∧ be16 b 4 = 6 ∧ byteAt b 7 = func := by
  have mask : 0x0000FFFFFFFF00FF00000000 = beNat [0, 0, 0xFF, 0xFF, 0xFF, 0xFF, 0, 0xFF, 0, 0, 0, 0] := rfl
  have zero_field : hiByte 0#16 = 0#8 ∧ loByte 0#16 = 0#8 := by decide
  have six_field : hiByte 6#16 = 0#8 ∧ loByte 6#16 = 6#8 := by decide
  rw [mask, beNat_and _ _ (by simpa), beNat_eq_iff (by simpa), take_eq_map_byteAt hlen]
  simp [List.range, List.range.loop, be16, wordOf_eq_iff, and_0xFF, zero_field, six_field, and_assoc]

theorem serialMask_iff {b : List Byte} (hlen : b.length = 8) (func : Byte) :
    beNat b &&& 0x00FF000000000000 = beNat [0, func, 0, 0, 0, 0, 0, 0] ↔ byteAt b 1 = func := by
  have octets := take_eq_map_byteAt hlen.ge
  rw [List.take_of_length_le hlen.le] at octets
  have mask : 0x00FF000000000000 = beNat [0, 0xFF, 0, 0, 0, 0, 0, 0] := rfl
  rw [mask, beNat_and _ _ hlen, beNat_eq_iff (by simp [hlen]), octets]
  simp [List.range, List.range.loop, and_0xFF]

theorem decode_streamRead03_iff {b : List Byte} (hlen : 12 ≤ b.length) :
    (∃ tid addr start count extra,
        decode ⟨.streamReq, b⟩ = .ok (.streamRead03 tid addr start count extra)) ↔
      be16 b 2 = 0 ∧ be16 b 4 = 6 ∧ byteAt b 7 = 0x03 := by
  simp only [decode, decodeStreamReq, hlen, true_and]
  split_ifs with is03 is04 <;> simpa using is03

theorem decode_streamRead04_iff {b : List Byte} (hlen : 12 ≤ b.length) :
    (∃ tid addr start count extra,
        decode ⟨.streamReq, b⟩ = .ok (.streamRead04 tid addr start count extra)) ↔
      be16 b 2 = 0 ∧ be16 b 4 = 6 ∧ byteAt b 7 = 0x04 := by
  simp only [decode, decodeStreamReq, hlen, true_and]
  split_ifs with is03 is04
  · simp [is03]
  · simpa using is04
  · simpa using is04

theorem decode_serialRead03_iff {b : List Byte} (hlen : b.length = 8) :
    (∃ addr start count crc, decode ⟨.serialReq, b⟩ = .ok (.serialRead03 addr start count crc)) ↔
      byteAt b 1 = 0x03 := by
  simp only [decode, decodeSerialReq, hlen, true_and]
  split_ifs with is03 is04 <;> simpa using is03

theorem decode_serialRead04_iff {b : List Byte} (hlen : b.length = 8) :
    (∃ addr start count crc, decode ⟨.serialReq, b⟩ = .ok (.serialRead04 addr start count crc)) ↔
      byteAt b 1 = 0x04 := by
  simp only [decode, decodeSerialReq, hlen, true_and]
  split_ifs with is03 is04
  · simp [is03]
  · simpa using is04
  · simpa using is04

/-- Settles O12: the masked number is the row's match exactly where the decoder's tests hold. -/
theorem requestRowsAreTheMasksOfTheTable : Obligations.RequestRowsAreTheMasksOfTheTable := by
  constructor
  · intro b hlen
    exact ⟨(decode_streamRead03_iff hlen).trans (streamMask_iff hlen 0x03).symm,
      (decode_streamRead04_iff hlen).trans (streamMask_iff hlen 0x04).symm⟩
  · intro b hlen
    exact ⟨(decode_serialRead03_iff hlen).trans (serialMask_iff hlen 0x03).symm,
      (decode_serialRead04_iff hlen).trans (serialMask_iff hlen 0x04).symm⟩

end Sys2Proof.Machine
end

section
/-! O40, O41, O42: the frame that a builder delivers, octet by octet; the response rows and the exception
code rows deliver such frames; how a receiver finds their length. -/

namespace Sys2Proof.Machine

open Sys2Proof

/-! The frames of the builders are those of R93 to R96. -/

theorem negativeFunction_toNat (func : Byte) : (negativeFunction func).toNat = 128 + func.toNat % 128 := by
  revert func
  decide

/-- A negative row's function octet is the builder's (R256). -/
theorem negativeFunction_setWidth (func : BitVec 7) :
    negativeFunction (func.setWidth 8) = funcOctet func := by
  apply BitVec.eq_of_toNat_eq
  rw [negativeFunction_toNat, funcOctet_toNat, BitVec.toNat_setWidth]
  omega

theorem negativeFunction_bit7 (func : Byte) : (negativeFunction func).getLsbD 7 = true := by
  rw [bit7_iff, negativeFunction_toNat]
  omega

/-- BYTECOUNT holds the length of a payload of at most 255 bytes (R258). -/
theorem byteCount_toNat {p : List Byte} (h : p.length ≤ 255) :
    (BitVec.ofNat 8 p.length).toNat = p.length := by
  rw [BitVec.toNat_ofNat]
  omega

/-- LEN counts ADDR, FUNC, BYTECOUNT and the payload (R252). -/
theorem len_toNat {p : List Byte} (h : p.length ≤ 255) :
    (BitVec.ofNat 16 (3 + p.length)).toNat = 3 + p.length := by
  rw [BitVec.toNat_ofNat]
  omega

theorem pairNat_enc16 (v : Word) : pairNat (hiByte v) (loByte v) = v.toNat := enc16_toNat v

theorem positiveFrame_responseBytes (link : Link) (addr func : Byte) {p : List Byte} (h : p.length ≤ 255) :
    PositiveFrame link addr func p (responseBytes (.positive link addr func p)) := by
  cases link with
  | streaming tid =>
    exact ⟨_, _, _, _, _, rfl, pairNat_enc16 _, (pairNat_enc16 _).trans (len_toNat h), byteCount_toNat h⟩
  | serial => exact ⟨_, _, _, rfl, byteCount_toNat h, pairNat_enc16 _⟩

theorem negativeFrame_buildNegative (link : Link) (addr func exc : Byte) :
    NegativeFrame link addr func exc (buildNegative link addr func exc) := by
  refine ⟨negativeFunction func, negativeFunction_toNat func, ?_⟩
  cases link with
  | streaming tid => exact ⟨_, _, rfl, pairNat_enc16 _⟩
  | serial => exact ⟨_, _, rfl, pairNat_enc16 _⟩

/-! The rows that run as a builder. -/

/-- Settles O40: each row is BUILD_NEG with its code. -/
theorem exceptionCodeRowsCarryTheirCode : Obligations.ExceptionCodeRowsCarryTheirCode := by
  intro s link addr func
  have carries (exc : Byte) := negativeFrame_buildNegative link addr func exc
  simp only [List.forall_mem_cons, List.not_mem_nil, false_implies, implies_true, and_true]
  refine ⟨?_, ?_, ?_, ?_, ?_, ?_, ?_, ?_, ?_, ?_⟩ <;> exact ⟨_, rfl, carries _⟩

theorem streamPos_answers (tid len : Word) (addr func bc : Byte) {data : List Byte} (s : State)
    (h : data.length ≤ 255) : Answers (.streamPos tid len addr func bc data) s
      (.bytes (responseBytes (.positive (.streaming tid) addr func data))) := answerPositive_of_le h

theorem serialPos_answers (addr func bc : Byte) {data : List Byte} (crc : Word) (s : State)
    (h : data.length ≤ 255) : Answers (.serialPos addr func bc data crc) s
      (.bytes (responseBytes (.positive .serial addr func data))) := answerPositive_of_le h

theorem answerPositive_refused {link : Link} {addr func : Byte} {p : List Byte} {s : State}
    (h : 255 < p.length) : answerPositive link addr func p s = .refused .payloadTooLong := by
  simp [answerPositive, buildPositive, h]

/-- With LEN and BYTECOUNT as computed, the row is the builder's frame (R252). -/
theorem encode_streamPos_bytes (tid : Word) {len : Word} (addr func : Byte) {bc : Byte} {data : List Byte}
    (short : data.length ≤ 255) (count : bc.toNat = data.length) (hlen : len.toNat = 3 + data.length) :
    (encode (.streamPos tid len addr func bc data)).bytes =
      responseBytes (.positive (.streaming tid) addr func data) := by
  obtain rfl : bc = BitVec.ofNat 8 data.length :=
    BitVec.eq_of_toNat_eq (count.trans (byteCount_toNat short).symm)
  obtain rfl : len = BitVec.ofNat 16 (3 + data.length) :=
    BitVec.eq_of_toNat_eq (hlen.trans (len_toNat short).symm)
  rfl

/-- With BYTECOUNT and CRC16 as computed, the row is the builder's frame (R253). -/
theorem encode_serialPos_bytes (addr func : Byte) {bc : Byte} {data : List Byte} {crc : Word}
    (short : data.length ≤ 255) (count : bc.toNat = data.length)
    (hcrc : crc = crc16 ([addr, func, bc] ++ data)) :
    (encode (.serialPos addr func bc data crc)).bytes = responseBytes (.positive .serial addr func data) := by
  obtain rfl : bc = BitVec.ofNat 8 data.length :=
    BitVec.eq_of_toNat_eq (count.trans (byteCount_toNat short).symm)
  rw [hcrc]
  rfl

theorem encode_streamNeg_bytes (tid : Word) (addr : Byte) (func : BitVec 7) (exc : Byte) :
    (encode (.streamNeg tid addr func exc)).bytes =
      buildNegative (.streaming tid) addr (func.setWidth 8) exc := by
  rw [buildNegative, negativeFunction_setWidth]
  rfl

/-- With CRC16 as computed, the row is the builder's frame (R257). -/
theorem encode_serialNeg_bytes (addr : Byte) (func : BitVec 7) (exc : Byte) {crc : Word}
    (hcrc : crc = crc16 [addr, negativeFunction (func.setWidth 8), exc]) :
    (encode (.serialNeg addr func exc crc)).bytes = buildNegative .serial addr (func.setWidth 8) exc := by
  rw [hcrc, buildNegative, negativeFunction_setWidth]
  rfl

/-- A well-formed row of a response format delivers its own octets. -/
theorem responseRow_answers {i : Instr} (s : State) (hwf : wellFormed i = true)
    (hf : (encode i).format = .streamPos ∨ (encode i).format = .streamNeg ∨
      (encode i).format = .serialPos ∨ (encode i).format = .serialNeg) :
    Answers i s (.bytes (encode i).bytes) := by
  cases i
  case streamPos tid len addr func bc data =>
    obtain ⟨short, count, hlen⟩ := of_decide_eq_true hwf
    rw [encode_streamPos_bytes tid addr func short count hlen]
    exact streamPos_answers tid len addr func bc s short
  case serialPos addr func bc data crc =>
    obtain ⟨short, count, hcrc⟩ := of_decide_eq_true hwf
    rw [encode_serialPos_bytes addr func short count hcrc]
    exact serialPos_answers addr func bc crc s short
  case streamNeg tid addr func exc =>
    rw [encode_streamNeg_bytes]
    rfl
  case serialNeg addr func exc crc =>
    rw [encode_serialNeg_bytes addr func exc (of_decide_eq_true hwf)]
    rfl
  all_goals simp [encode, errCodeCommand, tagCommand, operationCommand] at hf

/-- Settles O41: the computed fields of an operand are never read, so the frame is the builder's. -/
theorem responseRowsEmitTheirOwnFrame : Obligations.ResponseRowsEmitTheirOwnFrame := by
  intro s
  refine ⟨fun i => responseRow_answers s, fun tid len crc addr func bc data => ?_,
    fun tid crc addr exc func => ?_⟩
  · refine ⟨fun short => ?_, fun long => ⟨answerPositive_refused long, answerPositive_refused long⟩⟩
    have frame (link : Link) := positiveFrame_responseBytes link addr func short
    exact ⟨⟨_, streamPos_answers tid len addr func bc s short, frame _⟩,
      ⟨_, serialPos_answers addr func bc crc s short, frame _⟩⟩
  · have frame (link : Link) := negativeFrame_buildNegative link addr (func.setWidth 8) exc
    exact ⟨⟨_, rfl, frame _⟩, ⟨_, rfl, frame _⟩⟩

/-! R112: the receiver's length rule. -/

theorem streamFrame_length (tid len : Word) (rest : List Byte) :
    (streamFrame tid len rest).length = 6 + rest.length := by
  simp only [streamFrame, List.length_append, enc16_length, List.length_cons, List.length_nil]

theorem streamResponseLength_streamFrame (tid len : Word) (rest : List Byte) :
    streamResponseLength (streamFrame tid len rest) = 6 + len.toNat := by
  simp [streamResponseLength, streamFrame, enc16]

/-- A negative frame has bit 7 of FUNC set and five octets. -/
theorem serialResponseLength_negative (addr func exc : Byte) :
    serialResponseLength (buildNegative .serial addr func exc) = 5 := if_pos (negativeFunction_bit7 func)

theorem serialResponseLength_positive (addr : Byte) {func : Byte} {p : List Byte} (short : p.length ≤ 255)
    (bit7 : func.getLsbD 7 = false) :
    serialResponseLength (responseBytes (.positive .serial addr func p)) = 5 + p.length :=
  (if_neg (ne_true_of_eq_false bit7)).trans (congrArg (5 + ·) (byteCount_toNat short))

/-- Settles O42: LEN counts what follows it, BYTECOUNT the payload, and bit 7 tells the Serial frames
apart. -/
theorem receiverFindsTheLength : Obligations.ReceiverFindsTheLength := by
  intro s addr func exc tid p short
  refine ⟨⟨_, answerPositive_of_le short, ?_⟩, ⟨_, rfl, ?_⟩,
    fun bit7 => ⟨_, answerPositive_of_le short, ?_⟩, ⟨_, rfl, ?_⟩⟩
  · rw [streamPositive_length, responseBytes, streamResponseLength_streamFrame, len_toNat short,
      ← Nat.add_assoc]
  · rw [buildNegative, responseBytes, streamResponseLength_streamFrame, streamFrame_length]
    rfl
  · rw [serialPositive_length, serialResponseLength_positive addr short bit7]
  · rw [serialResponseLength_negative]
    rfl

end Sys2Proof.Machine
end

section
/-! O48 and O50: what a set-up engine answers to a parsed request, once for both transports; the request
rows are such requests. -/

namespace Sys2Proof.Machine

open Sys2Proof

/-- A buffer the engine accepts passes the `RX_MAX` test. -/
theorem tooLong_of_accepts {s : State} {raw : List Byte} (h : Accepts s raw) :
    tooLong s.config raw.length = false := by
  unfold tooLong
  split
  case h_1 => rfl
  case h_2 m bound => simpa using h m bound

theorem serve_of_parse_ok {tr : Transport} {raw : List Byte} {r : Request} {s : State} {a : Byte}
    (loaded : Loaded s) (esa : EsaSet s a) (accepts : Accepts s raw) (parsed : parse tr raw = .ok r) :
    serve tr raw s = serveRequest r a s := by
  simp only [serve, loaded.1, show s.esa = some a from esa, tooLong_of_accepts accepts, parsed,
    Bool.true_eq_false, Bool.false_eq_true, if_false]

theorem serveRequest_of_valid {r : Request} {a : Byte} (s : State) (h : (validate r a).ok = true) :
    serveRequest r a s = serveValid r s := if_pos h

theorem serveRequest_of_violation {r : Request} {a : Byte} (s : State) (h : (validate r a).ok = false) :
    serveRequest r a s = answerNegative (requestLink r) (requestFields r).slaveAddress
      (requestFields r).functionCode (excSel s.config (validate r a).reasons) s :=
  if_neg (ne_true_of_eq_false h)

/-- R277: a valid request whose key is in TABLE. -/
theorem serveValid_of_mem {r : Request} {s : State} {e : Entry} (loaded : Loaded s) (he : e ∈ s.table)
    (start : e.start = (requestFields r).startRegister) (count : e.count = (requestFields r).registerCount) :
    ∃ out, serveValid r s = answer (.bytes out) s ∧ PositiveFrame (requestLink r)
      (requestFields r).slaveAddress (requestFields r).functionCode e.payload out := by
  have read := tableRead_of_mem s.table loaded.2 e he
  obtain ⟨len, -, count_le⟩ := tableRead_length s.table loaded.2 _ _ _ read
  have short : e.payload.length ≤ 255 := by omega
  refine ⟨_, ?_, positiveFrame_responseBytes _ _ _ short⟩
  rw [serveValid, ← start, ← count, read]
  exact answerPositive_of_le short

/-- R275: a valid request whose key no object has. -/
theorem serveValid_of_miss {r : Request} {s : State}
    (miss : ∀ e ∈ s.table,
      ¬ (e.start = (requestFields r).startRegister ∧ e.count = (requestFields r).registerCount)) :
    ∃ out, serveValid r s = answer (.bytes out) s ∧ NegativeFrame (requestLink r)
      (requestFields r).slaveAddress (requestFields r).functionCode 0x02 out := by
  refine ⟨_, ?_, negativeFrame_buildNegative _ _ _ _⟩
  rw [serveValid]
  split
  case h_1 p read =>
    obtain ⟨e, he, start, count, -⟩ := tableRead_some _ _ _ _ read
    exact absurd ⟨start, count⟩ (miss e he)
  case h_2 => rfl

theorem validate_ok_iff (r : Request) (a : Byte) : (validate r a).ok = true ↔
    lengthViolation r = false ∧ checksumViolation r = false ∧ (requestFields r).slaveAddress = a ∧
      supportedFunction (requestFields r).functionCode = true := by
  simp [validate, reasonsEmpty, violations, and_assoc]

/-- Another address is a violation whatever else the request has (R213), and the first kind of the default
priority (R274). -/
theorem serveRequest_of_other_address {r : Request} {a : Byte} (s : State)
    (other : (requestFields r).slaveAddress ≠ a) :
    ∃ exc out, serveRequest r a s = answer (.bytes out) s ∧ NegativeFrame (requestLink r)
      (requestFields r).slaveAddress (requestFields r).functionCode exc out ∧
      (s.config.violPriority = defaultPriority → exc = s.config.excAddr) := by
  have violation : (validate r a).ok = false := by
    rw [← Bool.not_eq_true, validate_ok_iff]
    exact fun ⟨_, _, address, _⟩ => other address
  refine ⟨_, _, serveRequest_of_violation s violation, negativeFrame_buildNegative _ _ _ _,
    fun priority => ?_⟩
  simp [excSel, priority, defaultPriority, hasViolation, validate, violations, violationCode, other]

/-- What the request rows share: the frame is parsed to a request of a supported function with no length
violation. -/
theorem request_answered {s : State} {a : Byte} {tr : Transport} {raw : List Byte} {r : Request}
    (loaded : Loaded s) (esa : EsaSet s a) (accepts : Accepts s raw) (parsed : parse tr raw = .ok r)
    (length_ok : lengthViolation r = false)
    (supported : supportedFunction (requestFields r).functionCode = true)
    {checksumGood : Prop} (checksum_ok : checksumGood → checksumViolation r = false) :
    let f := requestFields r
    (f.slaveAddress = a → checksumGood →
      ∀ e ∈ s.table, e.start = f.startRegister → e.count = f.registerCount →
      ∃ out, serve tr raw s = answer (.bytes out) s ∧
        PositiveFrame (requestLink r) f.slaveAddress f.functionCode e.payload out) ∧
    (f.slaveAddress = a → checksumGood →
      (∀ e ∈ s.table, ¬ (e.start = f.startRegister ∧ e.count = f.registerCount)) →
      ∃ out, serve tr raw s = answer (.bytes out) s ∧
        NegativeFrame (requestLink r) f.slaveAddress f.functionCode 0x02 out) ∧
    (f.slaveAddress ≠ a → ∃ exc out, serve tr raw s = answer (.bytes out) s ∧
      NegativeFrame (requestLink r) f.slaveAddress f.functionCode exc out ∧
      (s.config.violPriority = defaultPriority → exc = s.config.excAddr)) := by
  rw [serve_of_parse_ok loaded esa accepts parsed]
  have valid (address : (requestFields r).slaveAddress = a) (good : checksumGood) :
      serveRequest r a s = serveValid r s :=
    serveRequest_of_valid s ((validate_ok_iff r a).2 ⟨length_ok, checksum_ok good, address, supported⟩)
  refine ⟨fun address good e he start count => ?_, fun address good miss => ?_,
    serveRequest_of_other_address s⟩
  · rw [valid address good]
    exact serveValid_of_mem loaded he start count
  · rw [valid address good]
    exact serveValid_of_miss miss

/-- PARSE_S reads the fields of a frame of R91. -/
theorem parse_streamReqBytes (tid : Word) (addr func : Byte) (start count : Word) (extra : List Byte) :
    parse .streaming (streamReqBytes tid addr func start count extra) =
      .ok (.streaming tid 6 ⟨addr, func, start, count, streamReqBytes tid addr func start count extra⟩) := by
  simp [parse, parseStreaming, streamReqBytes, enc16]

/-- PARSE_R reads the fields of a frame of R92. -/
theorem parse_serialReqBytes (addr func : Byte) (start count crc : Word) :
    parse .serial (serialReqBytes addr func start count crc) =
      .ok (.serial crc ⟨addr, func, start, count, serialReqBytes addr func start count crc⟩) := by
  simp [parse, parseSerial, serialReqBytes, enc16]

/-- The checksum of a frame of R92 is that of its first six octets (R216). -/
theorem checksumViolation_serialReqBytes {addr func : Byte} {start count crc : Word}
    (h : crc = crc16 ((serialReqBytes addr func start count crc).take 6)) :
    checksumViolation
      (.serial crc ⟨addr, func, start, count, serialReqBytes addr func start count crc⟩) = false :=
  bne_eq_false_iff_eq.2 h.symm

/-- Settles O48: each row is DISPATCH of its frame, which is parsed to the row's fields. -/
theorem requestRowsAreAnswered : Obligations.RequestRowsAreAnswered := by
  intro s a addr tid start count crc extra loaded esa
  have streaming (func : Byte) := parse_streamReqBytes tid addr func start count extra
  have serial (func : Byte) := parse_serialReqBytes addr func start count crc
  rw [List.forall_mem_cons, List.forall_mem_cons, List.forall_mem_cons, List.forall_mem_singleton]
  refine ⟨fun accepts => ?_, fun accepts => ?_, fun accepts => ?_, fun accepts => ?_⟩
  · exact request_answered loaded esa accepts (streaming 0x03) rfl rfl fun _ => rfl
  · exact request_answered loaded esa accepts (streaming 0x04) rfl rfl fun _ => rfl
  · exact request_answered loaded esa accepts (serial 0x03) rfl rfl
      fun good => checksumViolation_serialReqBytes (good rfl)
  · exact request_answered loaded esa accepts (serial 0x04) rfl rfl
      fun good => checksumViolation_serialReqBytes (good rfl)

/-! R102: octets from offset 12 on of a Streaming buffer. -/

theorem tooLong_mono {c : Config} {m n : Nat} (h : m ≤ n) (hn : tooLong c n = false) :
    tooLong c m = false := by
  unfold tooLong at *
  split
  case h_1 => rfl
  case h_2 bound some_bound =>
    rw [some_bound] at hn
    exact decide_eq_false fun long => of_decide_eq_false hn (long.trans_le h)

/-- No check of a Streaming request reads its raw octets. -/
theorem serveRequest_streaming_rawBytes (tid len : Word) (f : RequestFields) (raw : List Byte)
    (expected : Byte) (s : State) :
    serveRequest (.streaming tid len { f with rawBytes := raw }) expected s =
      serveRequest (.streaming tid len f) expected s := rfl

/-- PARSE_S reads the first 12 octets; the rest are in the raw octets alone. -/
theorem parseStreaming_append {raw : List Byte} (extra : List Byte) (h : 12 ≤ raw.length) :
    (∃ e, parseStreaming raw = .error e ∧ parseStreaming (raw ++ extra) = .error e) ∨
    ∃ tid len f, parseStreaming raw = .ok (.streaming tid len f) ∧
      parseStreaming (raw ++ extra) = .ok (.streaming tid len { f with rawBytes := raw ++ extra }) := by
  have field {i : Nat} (hi : i < 11) : be16 (raw ++ extra) i = be16 raw i := be16_append (by omega)
  have octet {i : Nat} (hi : i < 12) : byteAt (raw ++ extra) i = byteAt raw i := byteAt_append (by omega)
  have long : ¬ raw.length < 12 := by omega
  have longer : ¬ (raw ++ extra).length < 12 := by rw [List.length_append]; omega
  simp (disch := decide) only [parseStreaming, if_neg long, if_neg longer, field, octet]
  split
  · exact .inl ⟨_, rfl, rfl⟩
  · exact .inr ⟨_, _, _, rfl, rfl⟩

/-- Settles O50: the two buffers meet the same preconditions, and are parsed to requests that differ in
their raw octets alone. -/
theorem streamingTrailingOctetsAreIgnored : Obligations.StreamingTrailingOctetsAreIgnored := by
  intro s raw extra hlen accepts
  have longer_ok := tooLong_of_accepts accepts
  have ok : tooLong s.config raw.length = false := tooLong_mono (by simp) longer_ok
  simp only [exec, execDispatch, serve, longer_ok, ok, parse]
  rcases parseStreaming_append extra hlen with
    ⟨e, parsed, longer_parsed⟩ | ⟨tid, len, f, parsed, longer_parsed⟩
  · rw [parsed, longer_parsed]
  · rw [parsed, longer_parsed]
    simp only [serveRequest_streaming_rawBytes]

end Sys2Proof.Machine
end

section
/-! O4, O9 and O18: the selectors that are refused, the words of the table, and the tag rows. -/

namespace Sys2Proof.Machine

open Sys2Proof

theorem decode_reservedOp {sel : Byte} (operands : List Byte) (reserved : 13 ≤ sel.toNat)
    (narrow : sel.toNat ≤ 15) : decode ⟨.opSel4, sel :: operands⟩ = .error (.reservedOp sel) := by
  have not_wide : ¬ 16 ≤ sel.toNat := by omega
  simp only [decode, decodeOperation, if_neg not_wide, if_pos reserved]

theorem step_idle {s : State} (h : s.inbox = []) : step s = .next s := by
  simp only [step, h]

/-- Settles O4: the decoder tells a reserved selector from octets that are no spelling. -/
theorem reservedSelectorsAreRefused : Obligations.ReservedSelectorsAreRefused := by
  refine ⟨fun s sel operands rest reserved narrow waiting => ?_, fun s => step_idle⟩
  rw [step_cons waiting, runCommand, decode_reservedOp operands reserved narrow]
  rfl

/-- Settles O9: the octets of each word, by its width, are those of one instruction. -/
theorem wordsOfTheTableDecode : Obligations.WordsOfTheTableDecode :=
  ⟨rfl, rfl, rfl, rfl, rfl, rfl⟩

/-- A row that runs the codec on a tag word is WIDTHOF, DECODE and ENCODE of that word in its uses. -/
theorem codecUses_of_exec_eq {row : TagUse → Instr} {tag : Word} {s : State}
    (h : ∀ use, exec (row use) s = runCodec tag use s) :
    exec (row .widthOf) s = exec (.widthOf tag) s ∧
    (∀ b, exec (row (.decode b)) s = exec (.decode tag b) s) ∧
    (∀ v, exec (row (.encode v)) s = exec (.encode tag v) s) :=
  ⟨h _, fun _ => h _, fun _ => h _⟩

/-- The tag word of STRING(n) (R103). -/
theorem tagWord_string (n : BitVec 12) : tagWord 0xB#4 n = BitVec.ofNat 16 (0xB000 + n.toNat) := by
  apply BitVec.eq_of_toNat_eq
  have := n.isLt
  rw [tagWord, BitVec.toNat_append, ← Nat.shiftLeft_add_eq_or_of_lt n.isLt, Nat.shiftLeft_eq]
  simp only [BitVec.toNat_ofNat]
  omega

/-- Settles O18: the arm of each row is the codec on the row's word. -/
theorem tagRowsRunTheCodecOnTheirWord : Obligations.TagRowsRunTheCodecOnTheirWord := by
  intro s
  constructor
  · simp only [List.forall_mem_cons, List.not_mem_nil, false_implies, implies_true, and_true]
    refine ⟨?_, ?_, ?_, ?_, ?_, ?_, ?_, ?_, ?_, ?_, ?_⟩ <;> exact codecUses_of_exec_eq fun _ => rfl
  · intro n
    refine codecUses_of_exec_eq fun use => ?_
    rw [← tagWord_string]
    rfl

end Sys2Proof.Machine
end

section
/-! The rules of the codec: what WIDTHOF, DECODE and ENCODE answer for a tag word, which tag a word spells,
and the tag rows, each of which is the codec on the row's word. -/

namespace Sys2Proof.Machine

open Sys2Proof

@[simp] theorem answer_inj {r r' : Result} {s : State} : answer r s = answer r' s ↔ r = r' :=
  ⟨fun h => by simpa [eq_comm] using congrArg State.results (answer_next h), congrArg (answer · s)⟩

section
variable {tag : Word} {t : Tag} {s : State}

/-- A word that spells no tag is InvalidDataType in every use (R141). -/
theorem runCodec_of_none (use : TagUse) (h : tagOfWord tag = none) :
    runCodec tag use s = answer (.error (.invalidDataType tag)) s := by
  simp [runCodec, h, raise]

theorem runCodec_widthOf (h : tagOfWord tag = some t) :
    runCodec tag .widthOf s = answer (.width (tagWidth t)) s := by
  simp [runCodec, h]

theorem runCodec_decode {b : List Byte} (h : tagOfWord tag = some t) (takes : decodeTakes t b.length = true) :
    runCodec tag (.decode b) s = answer (.value (decodeValue s.config t b)) s := by
  simp [runCodec, h, takes]

theorem runCodec_decode_refused {b : List Byte} (h : tagOfWord tag = some t)
    (takes : decodeTakes t b.length = false) : runCodec tag (.decode b) s = .refused .decodeLength := by
  simp [runCodec, h, takes]

theorem runCodec_encode {v : TypedValue} {b : List Byte} (h : tagOfWord tag = some t)
    (he : encodeValue s.config t v = some b) : runCodec tag (.encode v) s = answer (.bytes b) s := by
  simp [runCodec, h, he]

theorem runCodec_encode_refused {v : TypedValue} (h : tagOfWord tag = some t)
    (he : encodeValue s.config t v = none) : runCodec tag (.encode v) s = .refused .encodeRange := by
  simp [runCodec, h, he]

end

/-- WIDTHOF answers a width exactly for the words that spell a tag (R141). -/
theorem widthOf_width_iff {tag : Word} {s : State} {w : Nat} :
    Answers (.widthOf tag) s (.width w) ↔ ∃ t, tagOfWord tag = some t ∧ tagWidth t = w := by
  change runCodec tag .widthOf s = answer (.width w) s ↔ _
  cases h : tagOfWord tag with
  | none => simp [runCodec_of_none _ h]
  | some t => simp [runCodec_widthOf h]

/-- WIDTHOF raises an error exactly for the words that spell no tag, and it is InvalidDataType (R141). -/
theorem widthOf_error_iff {tag : Word} {s : State} {e : LocalError} :
    Answers (.widthOf tag) s (.error e) ↔ tagOfWord tag = none ∧ .invalidDataType tag = e := by
  change runCodec tag .widthOf s = answer (.error e) s ↔ _
  cases h : tagOfWord tag with
  | none => simp [runCodec_of_none _ h]
  | some t => simp [runCodec_widthOf h]

theorem decode_value_iff {tag : Word} {s : State} {b : List Byte} {v : TypedValue} :
    Answers (.decode tag b) s (.value v) ↔
      ∃ t, tagOfWord tag = some t ∧ decodeTakes t b.length = true ∧ decodeValue s.config t b = v := by
  change runCodec tag (.decode b) s = answer (.value v) s ↔ _
  cases h : tagOfWord tag with
  | none => simp [runCodec_of_none _ h]
  | some t =>
    cases takes : decodeTakes t b.length with
    | false => simp [runCodec_decode_refused h takes, answer, takes]
    | true => simp [runCodec_decode h takes, takes]

theorem encode_bytes_iff {tag : Word} {s : State} {v : TypedValue} {b : List Byte} :
    Answers (.encode tag v) s (.bytes b) ↔
      ∃ t, tagOfWord tag = some t ∧ encodeValue s.config t v = some b := by
  change runCodec tag (.encode v) s = answer (.bytes b) s ↔ _
  cases h : tagOfWord tag with
  | none => simp [runCodec_of_none _ h]
  | some t =>
    cases he : encodeValue s.config t v with
    | none => simp [runCodec_encode_refused h he, answer, he]
    | some b' => simp [runCodec_encode h he, he]

theorem encode_bytes_iff_of_tag {tag : Word} {t : Tag} {s : State} {v : TypedValue} {b : List Byte}
    (h : tagOfWord tag = some t) :
    Answers (.encode tag v) s (.bytes b) ↔ encodeValue s.config t v = some b := by
  simp [encode_bytes_iff, h]

/-! Tag words (R103). -/

theorem fixedTag_eq_none_iff (kind : Nat) : fixedTag kind = none ↔ 11 ≤ kind := by
  constructor
  · intro h
    by_contra hk
    interval_cases kind <;> cases h
  · intro h
    obtain ⟨k, rfl⟩ := Nat.exists_eq_add_of_le' h
    rfl

/-- The fixed-width kinds and their widths (R142). -/
theorem fixedTag_width {kind : Nat} (h : kind ≤ 10) :
    ∃ t, fixedTag kind = some t ∧ tagWidth t = [1, 1, 1, 2, 2, 4, 4, 8, 8, 4, 8].getD kind 0 := by
  interval_cases kind <;> exact ⟨_, rfl, rfl⟩

/-- Which words spell a string tag. -/
theorem tagOfWord_eq_string_iff (tag : Word) (n : Nat) :
    tagOfWord tag = some (.string n) ↔
      tag.toNat / 4096 = 11 ∧ tag.toNat % 4096 = n ∧ 1 ≤ n ∧ n ≤ 255 := by
  have fixed : ∀ kind, fixedTag kind ≠ some (.string n) := by
    intro kind h
    have : kind ≤ 10 := by
      by_contra hk
      rw [(fixedTag_eq_none_iff kind).2 (by omega)] at h
      cases h
    interval_cases kind <;> cases h
  rw [← tagKind_eq, ← tagLength_eq, tagOfWord]
  by_cases string : tagKind tag = 11
  · rw [if_pos string]
    split
    · rw [Option.some.injEq, Tag.string.injEq]
      omega
    · simp only [reduceCtorEq, false_iff]
      omega
  · rw [if_neg string]
    simp only [string, false_and, iff_false]
    split
    · exact fixed _
    · exact nofun

/-- Which tag a word of a kind other than STRING spells. -/
theorem tagOfWord_of_kind_ne {tag : Word} (h : tag.toNat / 4096 ≠ 11) :
    tagOfWord tag = if tag.toNat % 4096 = 0 then fixedTag (tag.toNat / 4096) else none := by
  simp only [tagOfWord, tagKind_eq, tagLength_eq, if_neg h]

theorem tagOfWord_string {n : BitVec 12} (pos : 1 ≤ n.toNat) (le : n.toNat ≤ 255) :
    tagOfWord (tagWord 0xB n) = some (.string n.toNat) := by
  rw [tagOfWord_eq_string_iff, ← tagKind_eq, ← tagLength_eq, tagKind_tagWord, tagLength_tagWord]
  exact ⟨rfl, rfl, pos, le⟩

/-! Tag rows. -/

/-- The row of the table for the tag t: its word spells t, and the row runs the codec on that word (log
entry 7). -/
def IsTagRow (row : TagUse → Instr) (tag : Word) (t : Tag) : Prop :=
  tagOfWord tag = some t ∧ ∀ use s, exec (row use) s = runCodec tag use s

theorem isTagRow_bool : IsTagRow .tagBool 0x0000 .bool := ⟨rfl, fun _ _ => rfl⟩
theorem isTagRow_int8 : IsTagRow .tagInt8 0x1000 .int8 := ⟨rfl, fun _ _ => rfl⟩
theorem isTagRow_uint8 : IsTagRow .tagUint8 0x2000 .uint8 := ⟨rfl, fun _ _ => rfl⟩
theorem isTagRow_int16 : IsTagRow .tagInt16 0x3000 .int16 := ⟨rfl, fun _ _ => rfl⟩
theorem isTagRow_uint16 : IsTagRow .tagUint16 0x4000 .uint16 := ⟨rfl, fun _ _ => rfl⟩
theorem isTagRow_int32 : IsTagRow .tagInt32 0x5000 .int32 := ⟨rfl, fun _ _ => rfl⟩
theorem isTagRow_uint32 : IsTagRow .tagUint32 0x6000 .uint32 := ⟨rfl, fun _ _ => rfl⟩
theorem isTagRow_int64 : IsTagRow .tagInt64 0x7000 .int64 := ⟨rfl, fun _ _ => rfl⟩
theorem isTagRow_uint64 : IsTagRow .tagUint64 0x8000 .uint64 := ⟨rfl, fun _ _ => rfl⟩
theorem isTagRow_real32 : IsTagRow .tagReal32 0x9000 .real32 := ⟨rfl, fun _ _ => rfl⟩
theorem isTagRow_real64 : IsTagRow .tagReal64 0xA000 .real64 := ⟨rfl, fun _ _ => rfl⟩
theorem isTagRow_string {n : BitVec 12} (pos : 1 ≤ n.toNat) (le : n.toNat ≤ 255) :
    IsTagRow (.tagString n) (tagWord 0xB n) (.string n.toNat) :=
  ⟨tagOfWord_string pos le, fun _ _ => rfl⟩

section
variable {row : TagUse → Instr} {tag : Word} {t : Tag} {s : State}

/-- DECODE completes by the operation and by the row on every buffer the tag takes. -/
theorem IsTagRow.decodes (h : IsTagRow row tag t) {b : List Byte} (takes : decodeTakes t b.length = true) :
    Answers (.decode tag b) s (.value (decodeValue s.config t b)) ∧
      Answers (row (.decode b)) s (.value (decodeValue s.config t b)) :=
  ⟨runCodec_decode h.1 takes, (h.2 _ s).trans (runCodec_decode h.1 takes)⟩

/-- ENCODE completes by the operation and by the row on every value the tag takes. -/
theorem IsTagRow.encodes (h : IsTagRow row tag t) {v : TypedValue} {b : List Byte}
    (he : encodeValue s.config t v = some b) :
    Answers (.encode tag v) s (.bytes b) ∧ Answers (row (.encode v)) s (.bytes b) :=
  ⟨runCodec_encode h.1 he, (h.2 _ s).trans (runCodec_encode h.1 he)⟩

theorem IsTagRow.encode_refused (h : IsTagRow row tag t) {v : TypedValue}
    (he : encodeValue s.config t v = none) :
    exec (.encode tag v) s = .refused .encodeRange ∧ exec (row (.encode v)) s = .refused .encodeRange :=
  ⟨runCodec_encode_refused h.1 he, (h.2 _ s).trans (runCodec_encode_refused h.1 he)⟩

end

/-- Settles O17: the width of the tag that the word spells, or InvalidDataType where it spells none. -/
theorem widthOfAnswersTheCodecWidth : Obligations.WidthOfAnswersTheCodecWidth := by
  intro tag s
  have error_of_none : tagOfWord tag = none → Answers (.widthOf tag) s (.error (.invalidDataType tag)) :=
    fun h => widthOf_error_iff.2 ⟨h, rfl⟩
  refine ⟨fun fixed zero => ?_, fun fixed nonzero => ?_, fun string pos le => ?_, fun string bad => ?_,
    fun reserved => ?_⟩
  · obtain ⟨t, ht, width⟩ := fixedTag_width fixed
    exact widthOf_width_iff.2 ⟨t, by rw [tagOfWord_of_kind_ne (by omega), if_pos zero, ht], width⟩
  · exact error_of_none (by rw [tagOfWord_of_kind_ne (by omega), if_neg nonzero])
  · exact widthOf_width_iff.2 ⟨_, (tagOfWord_eq_string_iff _ _).2 ⟨string, rfl, pos, le⟩, rfl⟩
  · refine error_of_none ?_
    simp only [tagOfWord, tagKind_eq, tagLength_eq, if_pos string]
    exact if_neg (by omega)
  · refine error_of_none ?_
    rw [tagOfWord_of_kind_ne (by omega), (fixedTag_eq_none_iff _).2 (by omega), ite_self]

end Sys2Proof.Machine
end

section
/-! What the codec does to values: an encoding is a byte sequence of the tag's width that decodes to the
value, and for the number tags every such sequence is the encoding. -/

namespace Sys2Proof.Machine

open Sys2Proof

/-! Numbers. -/

theorem two_pow_eq_256_pow (w : Nat) : 2 ^ (8 * w) = 256 ^ w := by
  rw [Nat.pow_mul]

theorem int_two_pow_succ (m : Nat) : ((2 ^ (m + 1) : Nat) : Int) = 2 * 2 ^ m := by
  push_cast
  ring

/-- Two's complement is the balanced remainder (R15). -/
theorem sext_eq_bmod {m v : Nat} (lt : v < 2 ^ (m + 1)) : sext (m + 1) v = (v : Int).bmod (2 ^ (m + 1)) := by
  have half : (((2 ^ (m + 1) : Nat) : Int) + 1) / 2 = (2 ^ m : Nat) := by
    rw [Nat.pow_succ]
    omega
  rw [Int.bmod_def, half, Int.emod_eq_of_lt (by omega) (by omega)]
  simp only [sext, Nat.add_sub_cancel, Int.ofNat_lt]
  norm_cast

/-- `sext_n(v)` is the number of the n-bit signed range that is congruent to v. -/
theorem sext_eq_iff {n v : Nat} (pos : 0 < n) (lt : v < 2 ^ n) (x : Int) :
    sext n v = x ↔ -(2 ^ (n - 1)) ≤ x ∧ x < 2 ^ (n - 1) ∧ x % 2 ^ n = v := by
  obtain ⟨m, rfl⟩ : ∃ m, n = m + 1 := ⟨n - 1, by omega⟩
  have congruent : ((2 ^ (m + 1) : Nat) : Int) ∣ x - v ↔ x % 2 ^ (m + 1) = v := by
    rw [← Int.modEq_iff_dvd, Int.ModEq, Int.emod_eq_of_lt (by omega) (by omega), eq_comm, Nat.cast_pow,
      Nat.cast_ofNat]
  rw [sext_eq_bmod lt, Int.bmod_eq_iff (by positivity), congruent, int_two_pow_succ, Nat.add_sub_cancel]
  omega

theorem beBytes_eq_iff {w n : Nat} (lt : n < 256 ^ w) (b : List Byte) :
    beBytes w n = b ↔ b.length = w ∧ beNat b = n := by
  constructor
  · rintro rfl
    exact ⟨beBytes_length w n, beNat_beBytes w n lt⟩
  · rintro ⟨rfl, rfl⟩
    exact beBytes_beNat b

theorem beNat_lt_two_pow (b : List Byte) : beNat b < 2 ^ (8 * b.length) := by
  rw [two_pow_eq_256_pow]
  exact beNat_lt b

/-- What ENCODE of an unsigned number gives (R152). -/
theorem encodeUnsigned_eq_some_iff {w : Nat} {v : Int} {b : List Byte} :
    encodeUnsigned w v = some b ↔ b.length = w ∧ (beNat b : Int) = v := by
  rw [encodeUnsigned, Option.ite_none_right_eq_some, Option.some.injEq]
  constructor
  · rintro ⟨⟨nonneg, lt⟩, h⟩
    obtain ⟨n, rfl⟩ := Int.eq_ofNat_of_zero_le nonneg
    have lt' : n < 256 ^ w := by rw [← two_pow_eq_256_pow]; exact_mod_cast lt
    rw [Int.toNat_natCast, beBytes_eq_iff lt'] at h
    exact ⟨h.1, congrArg _ h.2⟩
  · rintro ⟨rfl, rfl⟩
    exact ⟨⟨Int.natCast_nonneg _, by exact_mod_cast beNat_lt_two_pow b⟩, beBytes_beNat b⟩

/-- What ENCODE of a signed number gives (R152). -/
theorem encodeSigned_eq_some_iff {w : Nat} (pos : 0 < w) {v : Int} {b : List Byte} :
    encodeSigned w v = some b ↔ b.length = w ∧ sext (8 * w) (beNat b) = v := by
  have remainder_lt : (v % 2 ^ (8 * w)).toNat < 256 ^ w := by
    have := Int.emod_lt_of_pos v (b := 2 ^ (8 * w)) (by positivity)
    rw [← two_pow_eq_256_pow]
    zify
    omega
  have remainder_nonneg := Int.emod_nonneg v (b := 2 ^ (8 * w)) (by positivity)
  rw [encodeSigned, Option.ite_none_right_eq_some, Option.some.injEq, beBytes_eq_iff remainder_lt]
  constructor
  · rintro ⟨⟨low, high⟩, rfl, h⟩
    refine ⟨rfl, (sext_eq_iff (by omega) (beNat_lt_two_pow b) v).2 ⟨low, high, by omega⟩⟩
  · rintro ⟨rfl, h⟩
    obtain ⟨low, high, remainder⟩ := (sext_eq_iff (by omega) (beNat_lt_two_pow b) v).1 h
    exact ⟨⟨low, high⟩, rfl, by omega⟩

/-! Numbers to values. -/

/-- A floating-point pattern is its bytes, most significant first (R149). -/
theorem beBytes_pattern_iff {w : Nat} (p : BitVec (8 * w)) (b : List Byte) :
    beBytes w p.toNat = b ↔ b.length = w ∧ BitVec.ofNat (8 * w) (beNat b) = p := by
  rw [beBytes_eq_iff (by rw [← two_pow_eq_256_pow]; exact p.isLt), and_congr_right_iff]
  rintro rfl
  rw [← BitVec.toNat_inj, BitVec.toNat_ofNat, Nat.mod_eq_of_lt (beNat_lt_two_pow b)]

/-- For the number tags ENCODE and DECODE are inverse to each other (R153). -/
theorem encodeValue_eq_some_iff {t : Tag} (not_bool : t ≠ .bool) (not_string : ∀ n, t ≠ .string n)
    (c : Config) (v : TypedValue) (b : List Byte) :
    encodeValue c t v = some b ↔ b.length = tagWidth t ∧ decodeValue c t b = v := by
  cases t with
  | bool => exact absurd rfl not_bool
  | string n => exact absurd rfl (not_string n)
  | real32 => cases v <;> simp [encodeValue, tagWidth, decodeValue, beBytes_pattern_iff (w := 4)]
  | real64 => cases v <;> simp [encodeValue, tagWidth, decodeValue, beBytes_pattern_iff (w := 8)]
  | uint8 | uint16 | uint32 | uint64 =>
    cases v <;> simp [encodeValue, tagWidth, decodeValue, decodeUnsigned, encodeUnsigned_eq_some_iff]
  | int8 | int16 | int32 | int64 =>
    cases v <;> simp [encodeValue, tagWidth, decodeValue, decodeSigned, encodeSigned_eq_some_iff]

/-! Strings. -/

section
variable {c : Config} {n : Nat}

theorem decodeString_of_leading (pad : c.strPad = .leading) (b : List Byte) :
    decodeString c n b = if n ≤ b.length then lastBytes b n else rep c.fill (n - b.length) ++ b := by
  rw [decodeString, pad]

theorem decodeString_of_trailing (pad : c.strPad = .trailing) (b : List Byte) :
    decodeString c n b = if n ≤ b.length then firstBytes b n else b ++ rep c.fill (n - b.length) := by
  rw [decodeString, pad]

/-- DECODE of STRING(n) gives n characters from every buffer (R151). -/
theorem decodeString_length (c : Config) (n : Nat) (b : List Byte) : (decodeString c n b).length = n := by
  cases pad : c.strPad with
  | leading =>
    rw [decodeString_of_leading pad]
    split <;> simp [lastBytes, rep] <;> omega
  | trailing =>
    rw [decodeString_of_trailing pad]
    split <;> simp [firstBytes, rep] <;> omega

section
variable {chars : List Byte} (len : chars.length = n)
include len

/-- A buffer of n characters is the string itself under both settings (R151). -/
theorem decodeString_self : decodeString c n chars = chars := by
  cases pad : c.strPad with
  | leading => simp [decodeString_of_leading pad, lastBytes, len]
  | trailing => simp [decodeString_of_trailing pad, firstBytes, ← len]

theorem decodeString_cons (pad : c.strPad = .leading) (x : Byte) : decodeString c n (x :: chars) = chars := by
  simp [decodeString_of_leading pad, lastBytes, len]

theorem decodeString_concat (pad : c.strPad = .trailing) (x : Byte) :
    decodeString c n (chars ++ [x]) = chars := by
  simp [decodeString_of_trailing pad, firstBytes, ← len]

theorem encodeString_of_even (even : n % 2 = 0) : encodeString c n chars = some chars := by
  rw [encodeString, if_pos len, if_pos even]

theorem encodeString_of_leading (odd : n % 2 = 1) (pad : c.strPad = .leading) :
    encodeString c n chars = some (c.fill :: chars) := by
  rw [encodeString, if_pos len, if_neg (by omega), pad]

theorem encodeString_of_trailing (odd : n % 2 = 1) (pad : c.strPad = .trailing) :
    encodeString c n chars = some (chars ++ [c.fill]) := by
  rw [encodeString, if_pos len, if_neg (by omega), pad]

/-- DECODE takes away the filler that ENCODE put (R153). -/
theorem encodeString_decodes :
    ∃ b, encodeString c n chars = some b ∧ b.length = (n + 1) / 2 * 2 ∧ decodeString c n b = chars := by
  rcases Nat.mod_two_eq_zero_or_one n with even | odd
  · exact ⟨chars, encodeString_of_even len even, by omega, decodeString_self len⟩
  · cases pad : c.strPad with
    | leading =>
      refine ⟨_, encodeString_of_leading len odd pad, ?_, decodeString_cons len pad _⟩
      rw [List.length_cons]
      omega
    | trailing =>
      refine ⟨_, encodeString_of_trailing len odd pad, ?_, decodeString_concat len pad _⟩
      rw [List.length_append, List.length_singleton]
      omega

end

theorem encodeString_eq_none_iff {chars : List Byte} : encodeString c n chars = none ↔ chars.length ≠ n := by
  constructor
  · intro h len
    obtain ⟨b, hb, -⟩ := encodeString_decodes (c := c) len
    rw [h] at hb
    cases hb
  · exact fun len => if_neg len

end

/-! All tags. -/

theorem decodeTakes_iff_of_fixed {t : Tag} (not_string : ∀ n, t ≠ .string n) (length : Nat) :
    decodeTakes t length = true ↔ length = tagWidth t := by
  cases t with
  | string n => exact absurd rfl (not_string n)
  | _ => exact beq_iff_eq

theorem decodeTakes_tagWidth (t : Tag) : decodeTakes t (tagWidth t) = true := by
  cases t <;> rfl

/-- What ENCODE gives has the tag's width and decodes to the value (R153). -/
theorem length_and_decode_of_encodeValue {c : Config} {t : Tag} {v : TypedValue} {b : List Byte}
    (h : encodeValue c t v = some b) : b.length = tagWidth t ∧ decodeValue c t b = v := by
  cases t with
  | bool =>
    cases v with
    | bool v =>
      cases h
      cases v <;> exact ⟨rfl, rfl⟩
    | _ => cases h
  | string n =>
    cases v with
    | string chars =>
      change encodeString c n chars = some b at h
      have len : chars.length = n := by
        by_contra len
        rw [encodeString_eq_none_iff.2 len] at h
        cases h
      obtain ⟨b', hb', width, decoded⟩ := encodeString_decodes (c := c) len
      cases h.symm.trans hb'
      exact ⟨width, congrArg _ decoded⟩
    | _ => cases h
  | _ => exact (encodeValue_eq_some_iff (by simp) (by simp) c v b).1 h

theorem encodeUnsigned_isSome (w : Nat) (v : Int) :
    (encodeUnsigned w v).isSome = decide (0 ≤ v ∧ v < 2 ^ (8 * w)) := by
  rw [encodeUnsigned]
  split <;> simp_all

theorem encodeSigned_isSome (w : Nat) (v : Int) :
    (encodeSigned w v).isSome = decide (-(2 ^ (8 * w - 1)) ≤ v ∧ v < 2 ^ (8 * w - 1)) := by
  rw [encodeSigned]
  split <;> simp_all

/-- ENCODE takes exactly the values of the tag's kind that are in its range (R152). -/
theorem encodeValue_isSome (c : Config) (t : Tag) (v : TypedValue) :
    (encodeValue c t v).isSome = valueFits t v := by
  cases t with
  | bool | real32 | real64 => cases v <;> rfl
  | uint8 | uint16 | uint32 | uint64 =>
    cases v with
    | int v => exact encodeUnsigned_isSome _ v
    | _ => rfl
  | int8 | int16 | int32 | int64 =>
    cases v with
    | int v => exact encodeSigned_isSome _ v
    | _ => rfl
  | string n =>
    cases v with
    | string chars =>
      change (encodeString c n chars).isSome = (chars.length == n)
      by_cases len : chars.length = n
      · obtain ⟨b, hb, -⟩ := encodeString_decodes (c := c) len
        simp [hb, len]
      · simp [encodeString_eq_none_iff.2 len, len]
    | _ => rfl

end Sys2Proof.Machine
end

section
/-! O19 to O26: DECODE and ENCODE of each tag, by the operation and by the tag's row; where they stop; the
round trip. -/

namespace Sys2Proof.Machine

open Sys2Proof

theorem forall_mem_pair {α : Type} {p : α → Prop} {x y : α} : (∀ i ∈ [x, y], p i) ↔ p x ∧ p y := by
  simp

/-- DECODE by a row whose tag is an unsigned integer (R146). -/
theorem IsTagRow.decodes_unsigned {row : TagUse → Instr} {tag : Word} {t : Tag} (h : IsTagRow row tag t)
    {s : State} {b : List Byte} {n : Int} (takes : decodeTakes t b.length = true)
    (unsigned : decodeValue s.config t b = decodeUnsigned b) (number : (beNat b : Int) = n) :
    Answers (.decode tag b) s (.value (.int n)) ∧ Answers (row (.decode b)) s (.value (.int n)) := by
  have value : decodeValue s.config t b = .int n := by rw [unsigned, decodeUnsigned, number]
  exact value ▸ h.decodes takes

/-- Settles O19: the big-endian sum of each buffer, written out. -/
theorem decodeOfBoolAndUnsigned : Obligations.DecodeOfBoolAndUnsigned := by
  intro s a b c d e f g h
  simp only [forall_mem_pair]
  have bool : decodeValue s.config .bool [a] = .bool (decide (a ≠ 0x00)) := by
    simp [decodeValue, bne, beq_eq_decide]
  refine ⟨bool ▸ isTagRow_bool.decodes rfl, isTagRow_uint8.decodes_unsigned rfl rfl ?_,
    isTagRow_uint16.decodes_unsigned rfl rfl ?_, isTagRow_uint32.decodes_unsigned rfl rfl ?_,
    isTagRow_uint64.decodes_unsigned rfl rfl ?_⟩
  all_goals
    simp only [beNat, List.foldl_cons, List.foldl_nil]
    push_cast
    ring

/-- DECODE by a row whose tag is a signed integer of w bytes (R147). -/
theorem IsTagRow.decodes_signed {row : TagUse → Instr} {tag : Word} {t : Tag} (h : IsTagRow row tag t)
    {w : Nat} (pos : 0 < w) {b : List Byte} (len : b.length = w) (s : State)
    (takes : decodeTakes t b.length = true) (signed : decodeValue s.config t b = decodeSigned w b) :
    ∃ v : Int, Answers (.decode tag b) s (.value (.int v)) ∧ Answers (row (.decode b)) s (.value (.int v)) ∧
      -(2 ^ (8 * w - 1)) ≤ v ∧ v < 2 ^ (8 * w - 1) ∧ v % 2 ^ (8 * w) = (beNat b : Int) := by
  obtain ⟨operation, byRow⟩ := signed ▸ h.decodes (s := s) takes
  exact ⟨_, operation, byRow, (sext_eq_iff (by omega) (len ▸ beNat_lt_two_pow b) _).1 rfl⟩

/-- Settles O20: the number is `sext`, which is the one of the range that is congruent. -/
theorem decodeOfSignedIsTwosComplement : Obligations.DecodeOfSignedIsTwosComplement := by
  intro s b
  simp only [List.forall_mem_cons, List.not_mem_nil, false_implies, implies_true, and_true]
  exact ⟨fun len => isTagRow_int8.decodes_signed (by decide) len s (beq_iff_eq.2 len) rfl,
    fun len => isTagRow_int16.decodes_signed (by decide) len s (beq_iff_eq.2 len) rfl,
    fun len => isTagRow_int32.decodes_signed (by decide) len s (beq_iff_eq.2 len) rfl,
    fun len => isTagRow_int64.decodes_signed (by decide) len s (beq_iff_eq.2 len) rfl⟩

/-- An octet of `encN` is eight bits of the pattern. -/
theorem ofNat_div_pow_eq_extractLsb' {w : Nat} (p : BitVec w) (k : Nat) :
    BitVec.ofNat 8 (p.toNat / 256 ^ k) = p.extractLsb' (8 * k) 8 := by
  apply BitVec.eq_of_toNat_eq
  rw [BitVec.extractLsb'_toNat, BitVec.toNat_ofNat, Nat.shiftRight_eq_div_pow, two_pow_eq_256_pow]

/-- The four uses of a row on a value and what it encodes to: the operations and the row agree, both ways. -/
theorem IsTagRow.roundTrip {row : TagUse → Instr} {tag : Word} {t : Tag} (h : IsTagRow row tag t) {s : State}
    {v : TypedValue} {b : List Byte} (he : encodeValue s.config t v = some b) :
    Answers (.encode tag v) s (.bytes b) ∧ Answers (.decode tag b) s (.value v) ∧
      Answers (row (.encode v)) s (.bytes b) ∧ Answers (row (.decode b)) s (.value v) := by
  obtain ⟨len, rfl⟩ := length_and_decode_of_encodeValue he
  obtain ⟨decoded, decodedByRow⟩ := h.decodes (s := s) (b := b) (len ▸ decodeTakes_tagWidth t)
  exact ⟨(h.encodes he).1, decoded, (h.encodes he).2, decodedByRow⟩

/-- Settles O21: the bytes of a pattern are its octets, and they decode to it. -/
theorem realsMoveAsPatterns : Obligations.RealsMoveAsPatterns := by
  intro s p q pb qb
  have octets32 : encodeValue s.config .real32 (.real32 p) = some pb := by
    simp only [encodeValue, beBytes, ofNat_div_pow_eq_extractLsb']
    rfl
  have octets64 : encodeValue s.config .real64 (.real64 q) = some qb := by
    simp only [encodeValue, beBytes, ofNat_div_pow_eq_extractLsb']
    rfl
  obtain ⟨e32, d32, e32r, d32r⟩ := isTagRow_real32.roundTrip octets32
  obtain ⟨e64, d64, e64r, d64r⟩ := isTagRow_real64.roundTrip octets64
  exact ⟨e32, d32, e32r, d32r, e64, d64, e64r, d64r⟩

/-- Settles O22: the characters are those of `decodeString`, by its two settings. -/
theorem decodeOfStringCutsOrFills : Obligations.DecodeOfStringCutsOrFills := by
  intro s n b pos le
  obtain ⟨operation, byRow⟩ := (isTagRow_string pos le).decodes (s := s) (b := b) rfl
  refine ⟨decodeString s.config n.toNat b, operation, byRow, decodeString_length _ _ _,
    fun pad long => ?_, fun pad short => ?_, fun pad long => ?_, fun pad short => ?_⟩
  · rw [decodeString_of_leading pad, if_pos long]
    exact ⟨_, (List.take_append_drop (b.length - n.toNat) b).symm⟩
  · rw [decodeString_of_leading pad, if_neg (by omega), rep]
  · rw [decodeString_of_trailing pad, if_pos long]
    exact ⟨_, (List.take_append_drop n.toNat b).symm⟩
  · rw [decodeString_of_trailing pad, if_neg (by omega), rep]

/-- Settles O23: the bytes are those of `encodeString`, by the parity of n and the setting. -/
theorem encodeOfStringPads : Obligations.EncodeOfStringPads := by
  intro s n chars pos le
  have row := isTagRow_string pos le
  constructor
  · intro len
    obtain ⟨out, encoded, width, -⟩ := encodeString_decodes (c := s.config) len
    have out_eq : ∀ {b}, encodeString s.config n.toNat chars = some b → out = b := fun h =>
      Option.some.inj (encoded.symm.trans h)
    obtain ⟨operation, byRow⟩ := row.encodes (v := .string chars) encoded
    exact ⟨out, operation, byRow, width, fun even => out_eq (encodeString_of_even len even),
      fun odd pad => out_eq (encodeString_of_leading len odd pad),
      fun odd pad => out_eq (encodeString_of_trailing len odd pad)⟩
  · exact fun len => row.encode_refused (v := .string chars) (encodeString_eq_none_iff.2 len)

section
variable {row : TagUse → Instr} {tag : Word} {t : Tag} {w : Nat} {v : Int} {s : State}

/-- ENCODE by a row whose tag is an unsigned integer of w bytes (R152). -/
theorem IsTagRow.encodes_unsigned (h : IsTagRow row tag t)
    (unsigned : encodeValue s.config t (.int v) = encodeUnsigned w v) (nonneg : 0 ≤ v)
    (lt : v < 2 ^ (8 * w)) :
    ∃ out, Answers (.encode tag (.int v)) s (.bytes out) ∧ Answers (row (.encode (.int v))) s (.bytes out) ∧
      out.length = w ∧ (beNat out : Int) = v := by
  obtain ⟨out, encoded⟩ := Option.isSome_iff_exists.1
    ((encodeUnsigned_isSome w v).trans (decide_eq_true ⟨nonneg, lt⟩))
  obtain ⟨operation, byRow⟩ := h.encodes (unsigned.trans encoded)
  exact ⟨out, operation, byRow, encodeUnsigned_eq_some_iff.1 encoded⟩

/-- ENCODE by a row whose tag is a signed integer of w bytes (R152). -/
theorem IsTagRow.encodes_signed (h : IsTagRow row tag t) (pos : 0 < w)
    (signed : encodeValue s.config t (.int v) = encodeSigned w v) (low : -(2 ^ (8 * w - 1)) ≤ v)
    (high : v < 2 ^ (8 * w - 1)) :
    ∃ out, Answers (.encode tag (.int v)) s (.bytes out) ∧ Answers (row (.encode (.int v))) s (.bytes out) ∧
      out.length = w ∧ (beNat out : Int) = v % 2 ^ (8 * w) := by
  obtain ⟨out, encoded⟩ := Option.isSome_iff_exists.1
    ((encodeSigned_isSome w v).trans (decide_eq_true ⟨low, high⟩))
  obtain ⟨operation, byRow⟩ := h.encodes (signed.trans encoded)
  obtain ⟨len, number⟩ := (encodeSigned_eq_some_iff pos).1 encoded
  obtain ⟨-, -, congruent⟩ := (sext_eq_iff (by omega) (len ▸ beNat_lt_two_pow out) v).1 number
  exact ⟨out, operation, byRow, len, congruent.symm⟩

end

/-- Settles O24: each tag's encoder is the one of its signedness and width. -/
theorem encodeOfBoolAndIntegers : Obligations.EncodeOfBoolAndIntegers := by
  refine ⟨fun s v => ?_, fun s v => ?_, fun s v => ?_⟩
  · exact forall_mem_pair.2 (isTagRow_bool.encodes (v := .bool v) rfl)
  · simp only [List.forall_mem_cons, List.not_mem_nil, false_implies, implies_true, and_true]
    exact ⟨isTagRow_uint8.encodes_unsigned rfl, isTagRow_uint16.encodes_unsigned rfl,
      isTagRow_uint32.encodes_unsigned rfl, isTagRow_uint64.encodes_unsigned rfl⟩
  · simp only [List.forall_mem_cons, List.not_mem_nil, false_implies, implies_true, and_true]
    exact ⟨isTagRow_int8.encodes_signed (by decide) rfl, isTagRow_int16.encodes_signed (by decide) rfl,
      isTagRow_int32.encodes_signed (by decide) rfl, isTagRow_int64.encodes_signed (by decide) rfl⟩

/-- Settles O25: `runCodec` tests the tag first; then the length, or the kind and the range. -/
theorem codecStopsOutsideItsDomain : Obligations.CodecStopsOutsideItsDomain := by
  intro s tag
  refine ⟨fun no_tag => ⟨runCodec_of_none .widthOf no_tag, fun b => runCodec_of_none (.decode b) no_tag,
    fun v => runCodec_of_none (.encode v) no_tag⟩, fun t spells => ⟨fun b fixed wrong => ?_, fun v => ?_,
    fun v bad => ?_⟩⟩
  · refine runCodec_decode_refused spells (Bool.eq_false_iff.2 fun takes => wrong ?_)
    exact (decodeTakes_iff_of_fixed fixed _).1 takes
  · rw [← encodeValue_isSome s.config, Option.isSome_iff_exists]
    simp only [encode_bytes_iff_of_tag spells]
  · rw [← encodeValue_isSome s.config, Option.isSome_eq_false_iff, Option.isNone_iff_eq_none] at bad
    exact runCodec_encode_refused spells bad

/-- A word of kind 0x1 to 0xA spells no BOOL and no STRING. -/
theorem number_of_kind {tag : Word} {t : Tag} (pos : 1 ≤ tag.toNat / 4096) (le : tag.toNat / 4096 ≤ 10)
    (h : tagOfWord tag = some t) : t ≠ .bool ∧ ∀ n, t ≠ .string n := by
  constructor
  · rintro rfl
    rw [tagOfWord_of_kind_ne (by omega)] at h
    split at h
    · generalize tag.toNat / 4096 = kind at *
      interval_cases kind <;> cases h
    · cases h
  · rintro n rfl
    have := (tagOfWord_eq_string_iff tag n).1 h
    omega

/-- Settles O26: `length_and_decode_of_encodeValue` and its converse for numbers, a byte of BOOL that is
not written, and a filler position that holds another byte. -/
theorem codecRoundTrip : Obligations.CodecRoundTrip := by
  refine ⟨fun s tag v b encodes => ?_, fun s tag v b pos le decodes => ?_, fun s x not_zero not_one => ?_,
    fun s n x chars odd le len other => ?_⟩
  · obtain ⟨t, spells, encoded⟩ := encode_bytes_iff.1 encodes
    obtain ⟨width, decoded⟩ := length_and_decode_of_encodeValue encoded
    exact ⟨decode_value_iff.2 ⟨t, spells, width ▸ decodeTakes_tagWidth t, decoded⟩,
      widthOf_width_iff.2 ⟨t, spells, width.symm⟩⟩
  · obtain ⟨t, spells, takes, decoded⟩ := decode_value_iff.1 decodes
    obtain ⟨not_bool, not_string⟩ := number_of_kind pos le spells
    exact encode_bytes_iff.2 ⟨t, spells, (encodeValue_eq_some_iff not_bool not_string _ _ _).2
      ⟨(decodeTakes_iff_of_fixed not_string _).1 takes, decoded⟩⟩
  · have spells : tagOfWord 0x0000 = some .bool := rfl
    refine ⟨decode_value_iff.2 ⟨.bool, spells, rfl, ?_⟩, ?_⟩
    · simpa [decodeValue] using not_zero
    · rw [encode_bytes_iff_of_tag spells]
      simpa [encodeValue] using Ne.symm not_one
  · have spells : tagOfWord (tagWord 0xB n) = some (.string n.toNat) := tagOfWord_string (by omega) le
    cases pad : s.config.strPad with
    | leading =>
      refine ⟨decode_value_iff.2 ⟨_, spells, rfl, congrArg _ (decodeString_cons len pad x)⟩, ?_⟩
      rw [encode_bytes_iff_of_tag spells, encodeValue, encodeString_of_leading len odd pad]
      simpa using other.symm
    | trailing =>
      refine ⟨decode_value_iff.2 ⟨_, spells, rfl, congrArg _ (decodeString_concat len pad x)⟩, ?_⟩
      rw [encode_bytes_iff_of_tag spells, encodeValue, encodeString_of_trailing len odd pad]
      simpa using other.symm

end Sys2Proof.Machine
end

section
/-! O27 and O56: the register image, and LOAD of an image under the register count of its tag. -/

namespace Sys2Proof.Machine

open Sys2Proof

/-- The filler of an image is one byte for the one-byte tags and empty for the others (R154). -/
theorem image_filler_length (t : Tag) :
    2 * regCount t - tagWidth t = if t = .bool ∨ t = .int8 ∨ t = .uint8 then 1 else 0 := by
  cases t with
  | string n =>
    simp only [regCount, tagWidth, reduceCtorEq, or_self, if_false]
    omega
  | _ => rfl

theorem tagWidth_le_regCount (t : Tag) : tagWidth t ≤ 2 * regCount t := by
  rw [regCount]
  omega

theorem image_eq_some_iff {c : Config} {t : Tag} {v : TypedValue} {p : List Byte} :
    image c t v = some p ↔
      ∃ b, encodeValue c t v = some b ∧ rep c.fill (2 * regCount t - tagWidth t) ++ b = p := by
  rw [image, Option.map_eq_some_iff]

theorem image_length {c : Config} {t : Tag} {v : TypedValue} {p : List Byte} (h : image c t v = some p) :
    p.length = 2 * regCount t := by
  obtain ⟨b, encoded, rfl⟩ := image_eq_some_iff.1 h
  have width := (length_and_decode_of_encodeValue encoded).1
  have := tagWidth_le_regCount t
  rw [List.length_append, rep, List.length_replicate]
  omega

theorem lastBytes_append {a b : List Byte} {n : Nat} (h : b.length = n) : lastBytes (a ++ b) n = b := by
  simp [lastBytes, ← h]

/-- UNIMAGE drops the filler and decodes (R155). -/
theorem unimage_of_image {c : Config} {t : Tag} {v : TypedValue} {p : List Byte} (h : image c t v = some p) :
    unimage c t p = v := by
  obtain ⟨b, encoded, rfl⟩ := image_eq_some_iff.1 h
  obtain ⟨width, decoded⟩ := length_and_decode_of_encodeValue encoded
  rw [unimage, lastBytes_append width, decoded]

/-- Settles O27: the filler completes whole registers and is dropped again. -/
theorem imageRoundTrip : Obligations.ImageRoundTrip := by
  intro c t v b encoded
  have imaged := image_eq_some_iff.2 ⟨b, encoded, rfl⟩
  refine ⟨_, imaged, image_length imaged, unimage_of_image imaged, fun one => ?_,
    fun not_bool not_int8 not_uint8 => ?_⟩
  · rw [image_filler_length, if_pos one]
    rfl
  · rw [image_filler_length, if_neg (by tauto)]
    rfl

/-- The register count of a tag is one that LOAD admits, but for STRING(255), which takes 128 (R143). -/
theorem regCount_of_word {tag : Word} {t : Tag} (h : tagOfWord tag = some t) :
    1 ≤ regCount t ∧ (tag ≠ 0xB0FF → regCount t ≤ 127) ∧ (tag = 0xB0FF → regCount t = 128) := by
  cases t with
  | string n =>
    obtain ⟨kind, length, pos, le⟩ := (tagOfWord_eq_string_iff tag n).1 h
    have is_255 : tag = 0xB0FF ↔ n = 255 := by
      rw [← BitVec.toNat_inj]
      simp only [BitVec.ofNat_eq_ofNat, BitVec.toNat_ofNat]
      omega
    rw [is_255, ne_eq, is_255, regCount, tagWidth]
    omega
  | _ =>
    refine ⟨by decide, fun _ => by decide, ?_⟩
    rintro rfl
    cases h

/-- LOAD refuses one bad entry alone (R235). -/
theorem exec_load_single_badEntry {e : Entry} {s : State} (unloaded : s.loaded = false)
    (bad : entryOk e = false) : exec (.load [e]) s = .refused .badEntry := by
  simp [exec, execLoad, tableLoad, unloaded, loadRefusal, bad]

/-- LOAD of one entry that it admits, and LOOKUP of its key afterwards (R234, R231). -/
theorem exec_load_single_lookup {e : Entry} {s : State} (unloaded : s.loaded = false) (ok : entryOk e = true) :
    ∃ u, exec (.load [e]) s = .next u ∧ Answers (.lookup e.start e.count) u (.payload (some e.payload)) :=
  ⟨_, exec_load_next unloaded (by simpa using ok) (List.nodup_singleton _),
    lookup_answers rfl (tableRead_tableInsert_self e [])⟩

/-- Settles O56: REGCOUNT and WIDTHOF test the same word, and 127 registers are the most LOAD admits. -/
theorem registerCountFollowsTheWidth : Obligations.RegisterCountFollowsTheWidth := by
  intro s tag
  refine ⟨fun w answers => ?_, fun e raises => ?_, fun t v p n start spells imaged counted unloaded => ?_⟩
  · obtain ⟨t, spells, rfl⟩ := widthOf_width_iff.1 answers
    exact (regCountOfWord_ok_iff _ _).2 ⟨t, spells, rfl⟩
  · obtain ⟨no_tag, rfl⟩ := widthOf_error_iff.1 raises
    simp only [regCountOfWord, no_tag]
  · obtain ⟨t', spells', rfl⟩ := (regCountOfWord_ok_iff _ _).1 counted
    obtain rfl : t = t' := Option.some.inj (spells.symm.trans spells')
    obtain ⟨pos, storable, too_long⟩ := regCount_of_word spells
    have len := image_length imaged
    constructor
    · intro other
      have le := storable other
      refine exec_load_single_lookup (e := ⟨start, _, p⟩) unloaded ((entryOk_iff _).2 ?_)
      rw [BitVec.toNat_ofNat, Nat.mod_eq_of_lt (by omega)]
      exact ⟨pos, le, len⟩
    · intro string255
      refine exec_load_single_badEntry unloaded (Bool.eq_false_iff.2 fun ok => ?_)
      obtain ⟨-, le, -⟩ := (entryOk_iff _).1 ok
      rw [too_long string255] at le
      exact absurd le (by decide : ¬ (BitVec.ofNat 16 128).toNat ≤ 127)

end Sys2Proof.Machine
end

section
/-! O13, O14 and O15: the CRC16 generator. One formula for the bits of a round says that a round loses
nothing, so neither does a byte step, whether its accumulator or its byte varies; two sequences that part
in one byte never meet again. -/

namespace Sys2Proof.Machine

open Sys2Proof

/-- The recursion of the model is iteration of its round. -/
theorem crcRounds_eq_iterate (n : Nat) (a : Word) : crcRounds n a = crcRound^[n] a := by
  induction n generalizing a with
  | zero => rfl
  | succ n ih => exact ih (crcRound a)

theorem crcFrom_append (a : Word) (b c : List Byte) : crcFrom a (b ++ c) = crcFrom (crcFrom a b) c :=
  List.foldl_append

/-- Settles O13: the procedure is the model's fold, taken at its last byte. -/
theorem crc16FollowsTheProcedure : Obligations.Crc16FollowsTheProcedure := by
  refine ⟨crc16, fun b s => rfl, rfl, fun b x => ?_⟩
  calc crc16 (b ++ [x]) = crcStep (crc16 b) x := crcFrom_append crcSeed b [x]
    _ = crcRound^[8] (crc16 b ^^^ x.setWidth 16) := crcRounds_eq_iterate 8 _

theorem crcRound_eq_xor (a : Word) :
    crcRound a = (a >>> 1) ^^^ (if a.getLsbD 0 = true then 0xA001 else 0x0000) := by
  by_cases low : a.getLsbD 0 = true
  · rw [crcRound, if_pos low, if_pos low, crcPoly]
  · rw [crcRound, if_neg low, if_neg low]
    exact BitVec.xor_zero.symm

/-- R171 for any bit: it is the next higher one, and takes bit 0 where the polynomial has a one. -/
theorem crcRound_getLsbD (a : Word) (k : Nat) :
    (crcRound a).getLsbD k = (a.getLsbD (k + 1) ^^ (a.getLsbD 0 && crcPoly.getLsbD k)) := by
  rw [crcRound_eq_xor, BitVec.getLsbD_xor, BitVec.getLsbD_ushiftRight, Nat.add_comm]
  cases a.getLsbD 0
  case false => simp
  case true => simp [crcPoly]

/-- The ones of 0xA001. -/
theorem crcPoly_getLsbD {k : Nat} (hk : k < 16) :
    crcPoly.getLsbD k = decide (k = 15 ∨ k = 13 ∨ k = 0) := by
  revert k
  decide

theorem crcRound_getLsbD_fifteen (a : Word) : (crcRound a).getLsbD 15 = a.getLsbD 0 := by
  rw [crcRound_getLsbD, crcPoly_getLsbD (by decide), BitVec.getLsbD_of_ge a _ (by decide)]
  simp

/-- Settles O14: each clause is the bit formula, read at the ones and at the zeros of the polynomial. -/
theorem crcRoundBitByBit : Obligations.CrcRoundBitByBit := by
  refine fun a => ⟨crcRound_eq_xor a, crcRound_getLsbD_fifteen a, ?_, ?_, fun k le not13 not0 => ?_⟩
  · rw [crcRound_getLsbD, (by decide : crcPoly.getLsbD 13 = true), Bool.and_true]
  · rw [crcRound_getLsbD, (by decide : crcPoly.getLsbD 0 = true), Bool.and_true]
  · have zero : crcPoly.getLsbD k = false := by
      rw [crcPoly_getLsbD (by omega), decide_eq_false_iff_not]
      omega
    rw [crcRound_getLsbD, zero, Bool.and_false, Bool.xor_false]

/-- Bit 15 of the result gives back bit 0, and then the bits below give back the bits above it. -/
theorem crcRound_injective : Function.Injective crcRound := by
  intro a b h
  have low : a.getLsbD 0 = b.getLsbD 0 := by
    rw [← crcRound_getLsbD_fifteen, h, crcRound_getLsbD_fifteen]
  refine BitVec.eq_of_getLsbD_eq fun i _ => ?_
  cases i with
  | zero => exact low
  | succ k =>
    have bit : (crcRound a).getLsbD k = (crcRound b).getLsbD k := by rw [h]
    rwa [crcRound_getLsbD, crcRound_getLsbD, low, Bool.xor_left_inj] at bit

theorem crcRounds_injective (n : Nat) : Function.Injective (crcRounds n) := by
  rw [show crcRounds n = crcRound^[n] from funext (crcRounds_eq_iterate n)]
  exact crcRound_injective.iterate n

/-- On one byte, different accumulators stay different. -/
theorem crcStep_injective_left (x : Byte) : Function.Injective (crcStep · x) :=
  fun _ _ h => (BitVec.xor_left_inj _).1 (crcRounds_injective 8 h)

/-- From one accumulator, different bytes give different ones. -/
theorem crcStep_injective_right (a : Word) : Function.Injective (crcStep a) := by
  intro x y h
  have wide : x.setWidth 16 = y.setWidth 16 := (BitVec.xor_right_inj _).1 (crcRounds_injective 8 h)
  rw [← wordOf_zero_left, ← wordOf_zero_left] at wide
  rw [← loByte_wordOf 0#8 x, wide, loByte_wordOf]

theorem crcFrom_injective (b : List Byte) : Function.Injective (crcFrom · b) := by
  induction b with
  | nil => exact Function.injective_id
  | cons x b ih => exact fun _ _ h => crcStep_injective_left x (ih h)

/-- Byte sequences that differ in one byte only have different CRC16 values. -/
theorem crc16_ne_of_byte_ne (p q : List Byte) {x y : Byte} (h : x ≠ y) :
    crc16 (p ++ x :: q) ≠ crc16 (p ++ y :: q) := by
  intro same
  rw [crc16, crc16, crcFrom_append, crcFrom_append] at same
  exact h (crcStep_injective_right _ (crcFrom_injective q same))

theorem xor_bit_ne (x : Byte) {k : Nat} (hk : k < 8) : x ^^^ (1#8 <<< k) ≠ x := by
  have bit : ∀ k < 8, 1#8 <<< k ≠ 0#8 := by decide
  exact fun h => bit k hk (by simpa using h)

/-- Settles O15: a flipped bit makes another byte. -/
theorem crcDetectsEverySingleBitError : Obligations.CrcDetectsEverySingleBitError := by
  intro p q x k hk s
  refine ⟨_, _, rfl, rfl, ?_⟩
  rw [List.append_assoc, List.append_assoc]
  exact crc16_ne_of_byte_ne p q (xor_bit_ne x hk).symm

end Sys2Proof.Machine
end

section
/-! O16: a flipped bit of a Serial request stands in the six octets under the checksum or in the CRC16
field, never in both, so the two no longer agree; and a request with a violation is answered with five
octets. -/

namespace Sys2Proof.Machine

open Sys2Proof

/-- The buffer with bit k of octet j flipped. -/
def flipBit (b : List Byte) (j k : Nat) : List Byte := b.set j (byteAt b j ^^^ (1#8 <<< k))

@[simp] theorem flipBit_length (b : List Byte) (j k : Nat) : (flipBit b j k).length = b.length :=
  List.length_set

theorem byteAt_flipBit_self {b : List Byte} {j : Nat} (k : Nat) (hj : j < b.length) :
    byteAt (flipBit b j k) j = byteAt b j ^^^ (1#8 <<< k) := by
  simp [byteAt, flipBit, hj]

theorem byteAt_flipBit_ne (b : List Byte) {i j : Nat} (k : Nat) (h : j ≠ i) :
    byteAt (flipBit b j k) i = byteAt b i := by
  simp [byteAt, flipBit, List.getElem?_set_ne h]

theorem be16_flipBit_ne (b : List Byte) {i j : Nat} (k : Nat) (h : j < i) :
    be16 (flipBit b j k) i = be16 b i := by
  rw [be16, byteAt_flipBit_ne b k h.ne, byteAt_flipBit_ne b k (h.trans (Nat.lt_succ_self i)).ne, be16]

theorem take_flipBit_of_le (b : List Byte) {n j : Nat} (k : Nat) (h : n ≤ j) :
    (flipBit b j k).take n = b.take n := List.take_set_of_le h

theorem take_flipBit_of_lt (b : List Byte) {n j : Nat} (k : Nat) (h : j < n) :
    (flipBit b j k).take n = flipBit (b.take n) j k := by
  have octet : byteAt (b.take n) j = byteAt b j := by simp [byteAt, List.getElem?_take_of_lt h]
  rw [flipBit, List.take_set, flipBit, octet]

/-- R175, at a position: a flipped bit changes the CRC16 of the buffer. -/
theorem crc16_flipBit_ne {b : List Byte} {j k : Nat} (hj : j < b.length) (hk : k < 8) :
    crc16 (flipBit b j k) ≠ crc16 b := by
  have whole : b.take j ++ byteAt b j :: b.drop (j + 1) = b := by
    rw [← drop_eq_byteAt_cons hj, List.take_append_drop]
  have flipped : flipBit b j k = b.take j ++ (byteAt b j ^^^ (1#8 <<< k)) :: b.drop (j + 1) := by
    rw [flipBit, List.set_eq_take_append_cons_drop, if_pos hj]
  have differ := crc16_ne_of_byte_ne (b.take j) (b.drop (j + 1)) (xor_bit_ne (byteAt b j) hk)
  rwa [← flipped, whole] at differ

/-- Equal fields have equal octets. -/
theorem byteAt_eq_of_be16_eq {b c : List Byte} {i : Nat} (h : be16 b i = be16 c i) :
    byteAt b i = byteAt c i ∧ byteAt b (i + 1) = byteAt c (i + 1) :=
  ⟨by simpa [be16] using congrArg hiByte h, by simpa [be16] using congrArg loByte h⟩

/-- A flipped bit of a field changes the field. -/
theorem be16_flipBit_ne_self {b : List Byte} {i j k : Nat} (hj : j = i ∨ j = i + 1) (hb : j < b.length)
    (hk : k < 8) : be16 (flipBit b j k) i ≠ be16 b i := by
  have octet : byteAt (flipBit b j k) j ≠ byteAt b j := by
    rw [byteAt_flipBit_self k hb]
    exact xor_bit_ne _ hk
  intro same
  obtain ⟨hi, lo⟩ := byteAt_eq_of_be16_eq same
  rcases hj with rfl | rfl
  · exact octet hi
  · exact octet lo

/-- Where the checksum of a request frame stood, it does not stand once any of the 64 bits is flipped. -/
theorem checksum_flipBit_ne {b : List Byte} {j k : Nat} (len : b.length = 8) (hj : j < 8) (hk : k < 8)
    (good : crc16 (b.take 6) = be16 b 6) :
    crc16 ((flipBit b j k).take 6) ≠ be16 (flipBit b j k) 6 := by
  by_cases body : j < 6
  · rw [be16_flipBit_ne b k body, ← good, take_flipBit_of_lt b k body]
    exact crc16_flipBit_ne (by rw [List.length_take]; omega) hk
  · rw [take_flipBit_of_le b k (by omega), good]
    exact (be16_flipBit_ne_self (by omega) (by omega) hk).symm

/-- PARSE_R of eight octets: the CRC16 field stands at offset 6 (R195). -/
def serialRequestOf (b : List Byte) : Request :=
  .serial (be16 b 6) ⟨byteAt b 0, byteAt b 1, be16 b 2, be16 b 4, b⟩

theorem parse_serial_of_length {b : List Byte} (len : b.length = 8) :
    parse .serial b = .ok (serialRequestOf b) := by
  simp [parse, parseSerial, serialRequestOf, len]

theorem checksumViolation_serialRequestOf {b : List Byte} (len : 6 ≤ b.length) :
    checksumViolation (serialRequestOf b) = (crc16 (b.take 6) != be16 b 6) := by
  simp only [checksumViolation, serialRequestOf, requestCrc, if_pos len]
  rfl

theorem runParser_of_parse_ok {tr : Transport} {b : List Byte} {r : Request} {s : State}
    (accepts : Accepts s b) (parsed : parse tr b = .ok r) : runParser tr b s = answer (.request r) s := by
  simp [runParser, tooLong_of_accepts accepts, parsed]

/-- A Serial request with a violation is answered with a frame of R96. -/
theorem serveRequest_serial_of_violation {crc : Word} {f : RequestFields} {a : Byte} (s : State)
    (h : (validate (.serial crc f) a).ok = false) :
    ∃ out, serveRequest (.serial crc f) a s = answer (.bytes out) s ∧ out.length = 5 ∧
      (byteAt out 1).getLsbD 7 = true :=
  ⟨_, serveRequest_of_violation s h, rfl, negativeFunction_bit7 _⟩

/-- R216, R270: eight octets whose checksum is wrong are parsed, reported and answered with a negative
response, whatever else is wrong with them. -/
theorem serial_checksumMismatch_answered {s : State} {a : Byte} {raw : List Byte} (loaded : Loaded s)
    (esa : EsaSet s a) (accepts : Accepts s raw) (len : raw.length = 8)
    (wrong : crc16 (raw.take 6) ≠ be16 raw 6) :
    (∃ r v, Answers (.parseR raw) s (.request r) ∧ Answers (.validate r a) s (.validation v) ∧
      v.ok = false ∧ v.reasons.checksumMismatch = true) ∧
    ∃ out, Answers (.dispatch .serial raw) s (.bytes out) ∧ out.length = 5 ∧
      (byteAt out 1).getLsbD 7 = true := by
  have parsed := parse_serial_of_length len
  have mismatch : checksumViolation (serialRequestOf raw) = true := by
    rw [checksumViolation_serialRequestOf (by omega), bne_iff_ne]
    exact wrong
  have violation : (validate (serialRequestOf raw) a).ok = false := by
    rw [← Bool.not_eq_true, validate_ok_iff, mismatch]
    simp
  obtain ⟨out, answered, out_len, bit7⟩ := serveRequest_serial_of_violation s violation
  exact ⟨⟨_, _, runParser_of_parse_ok accepts parsed, rfl, violation, mismatch⟩,
    out, (serve_of_parse_ok loaded esa accepts parsed).trans answered, out_len, bit7⟩

/-- Settles O16: the checksum of the valid request stands, so that of the flipped one does not. -/
theorem serialBitFlipIsReportedAndAnswered : Obligations.SerialBitFlipIsReportedAndAnswered := by
  intro s a raw r j k loaded esa accepts len parsed valid hj hk
  obtain rfl : serialRequestOf raw = r :=
    Except.ok.inj ((parse_serial_of_length len).symm.trans parsed)
  obtain ⟨-, good, -, -⟩ := (validate_ok_iff _ _).1 valid
  rw [checksumViolation_serialRequestOf (by omega), bne_eq_false_iff_eq] at good
  have same_len := flipBit_length raw j k
  have accepts' : Accepts s (flipBit raw j k) := fun m bound => same_len.trans_le (accepts m bound)
  exact serial_checksumMismatch_answered loaded esa accepts' (same_len.trans len)
    (checksum_flipBit_ne len hj hk good)

end Sys2Proof.Machine
end

section
/-! O28 and O29: what each parser makes of a buffer, one lemma for each branch, and what the engine delivers
of it. -/

namespace Sys2Proof.Machine

open Sys2Proof

theorem be16_toNat (b : List Byte) (i : Nat) :
    (be16 b i).toNat = pairNat (byteAt b i) (byteAt b (i + 1)) := wordOf_toNat _ _

/-- The last field of a buffer is its last two octets (R195). -/
theorem be16_last_toNat {b : List Byte} (h : 2 ≤ b.length) :
    (be16 b (b.length - 2)).toNat = pairNat (byteAt b (b.length - 2)) (byteAt b (b.length - 1)) := by
  have last : b.length - 2 + 1 = b.length - 1 := by omega
  rw [be16_toNat, last]

theorem runParser_of_parse_error {tr : Transport} {b : List Byte} {e : LocalError} {s : State}
    (accepts : Accepts s b) (parsed : parse tr b = .error e) : runParser tr b s = answer (.error e) s := by
  simp [runParser, tooLong_of_accepts accepts, parsed, raise]

/-- PARSE_S of a buffer long enough and with PID = 0x0000 (R191). -/
def streamingRequestOf (b : List Byte) : Request :=
  .streaming (be16 b 0) (be16 b 4) ⟨byteAt b 6, byteAt b 7, be16 b 8, be16 b 10, b⟩

theorem parse_streaming_of_short {b : List Byte} (short : b.length < 12) :
    parse .streaming b = .error (.frameTooShort b.length) := if_pos short

/-- R193, R194: the PID is tested where the length is not at fault. -/
theorem parse_streaming_of_pid_ne {b : List Byte} (long : 12 ≤ b.length) (pid : be16 b 2 ≠ 0) :
    parse .streaming b = .error (.protocolIdMismatch (be16 b 2)) :=
  (if_neg long.not_gt).trans (if_pos pid)

theorem parse_streaming_of_pid_eq {b : List Byte} (long : 12 ≤ b.length) (pid : be16 b 2 = 0) :
    parse .streaming b = .ok (streamingRequestOf b) :=
  (if_neg long.not_gt).trans (if_neg (not_not_intro pid))

theorem parse_serial_of_short {b : List Byte} (short : b.length < 8) :
    parse .serial b = .error (.frameTooShort b.length) := if_pos short

theorem parse_serial_of_long {b : List Byte} (long : 8 ≤ b.length) :
    parse .serial b = .ok (.serial (be16 b (b.length - 2))
      ⟨byteAt b 0, byteAt b 1, be16 b 2, be16 b 4, b⟩) := if_neg long.not_gt

/-- Settles O28, branch by branch of PARSE_S; the PID of the statement is the field at offset 2. -/
theorem parseStreamingExtractsTheFields : Obligations.ParseStreamingExtractsTheFields := by
  intro s b accepts
  refine ⟨fun short => ?_, fun long pid pid_value pid_ne => ?_, fun long pid_zero => ?_⟩
  · exact runParser_of_parse_error accepts (parse_streaming_of_short short)
  · obtain rfl : pid = be16 b 2 := BitVec.eq_of_toNat_eq (pid_value.trans (be16_toNat b 2).symm)
    exact runParser_of_parse_error accepts (parse_streaming_of_pid_ne long pid_ne)
  · have pid_eq : be16 b 2 = 0 := BitVec.eq_of_toNat_eq ((be16_toNat b 2).trans pid_zero)
    exact ⟨_, _, _, _, runParser_of_parse_ok accepts (parse_streaming_of_pid_eq long pid_eq),
      be16_toNat b 0, be16_toNat b 4, be16_toNat b 8, be16_toNat b 10⟩

/-- Settles O29, branch by branch of PARSE_R. -/
theorem parseSerialExtractsTheFields : Obligations.ParseSerialExtractsTheFields := by
  intro s b accepts
  refine ⟨fun short => ?_, fun long => ?_⟩
  · exact runParser_of_parse_error accepts (parse_serial_of_short short)
  · exact ⟨_, _, _, runParser_of_parse_ok accepts (parse_serial_of_long long),
      be16_toNat b 2, be16_toNat b 4, be16_last_toNat (by omega)⟩

end Sys2Proof.Machine
end

section
/-! O31 and O49: what each check of VALIDATE asks, one lemma for each check, and what DISPATCH answers where
the checksum check fails on a request to the expected address. -/

namespace Sys2Proof.Machine

open Sys2Proof

/-- R210: the four kinds are all there is to the set. -/
theorem reasonsEmpty_iff (v : Reasons) : reasonsEmpty v = true ↔ v = ⟨false, false, false, false⟩ := by
  cases v
  simp [reasonsEmpty, and_assoc]

/-- R214. -/
theorem not_supportedFunction_iff (func : Byte) :
    (!supportedFunction func) = true ↔ func ≠ 0x03 ∧ func ≠ 0x04 := by
  simp [supportedFunction]

/-- R212. -/
theorem lengthViolation_streaming_iff (tid len : Word) (f : RequestFields) :
    lengthViolation (.streaming tid len f) = true ↔ len.toNat ≠ 6 :=
  bne_iff_ne.trans (not_congr BitVec.toNat_inj.symm)

/-- R215. -/
theorem lengthViolation_serial_iff (crc : Word) (f : RequestFields) :
    lengthViolation (.serial crc f) = true ↔ f.rawBytes.length ≠ 8 := bne_iff_ne

/-- R216: with six octets or more, the checksum is that of the first six. -/
theorem checksumViolation_serial_iff (crc : Word) {f : RequestFields} (six : 6 ≤ f.rawBytes.length) :
    checksumViolation (.serial crc f) = true ↔ crc16 (f.rawBytes.take 6) ≠ crc := by
  rw [checksumViolation, requestCrc, if_pos six]
  exact bne_iff_ne

/-- Settles O31, check by check: no check looks at the result of another (R217). -/
theorem validateReportsEveryViolation : Obligations.ValidateReportsEveryViolation := by
  intro s r expected
  refine ⟨validate r expected, rfl, reasonsEmpty_iff _, bne_iff_ne, not_supportedFunction_iff _, ?_, ?_⟩
  · rintro tid len f rfl
    exact ⟨lengthViolation_streaming_iff tid len f, rfl⟩
  · rintro crc f rfl
    exact ⟨lengthViolation_serial_iff crc f, fun six => ⟨_, rfl, checksumViolation_serial_iff crc six⟩⟩

/-- R274: under the default priority a wrong checksum is outranked by another address alone. -/
theorem excSel_of_checksumMismatch {c : Config} {v : Reasons} (priority : c.violPriority = defaultPriority)
    (address : v.addressMismatch = false) (checksum : v.checksumMismatch = true) : excSel c v = c.excCrc := by
  simp [excSel, priority, defaultPriority, hasViolation, address, checksum, violationCode]

/-- R216, R274: a request to the expected address with a wrong checksum, whatever else it has. -/
theorem serveRequest_of_checksumViolation {r : Request} {a : Byte} {s : State}
    (priority : s.config.violPriority = defaultPriority) (address : (requestFields r).slaveAddress = a)
    (wrong : checksumViolation r = true) :
    ∃ out, serveRequest r a s = answer (.bytes out) s ∧ NegativeFrame (requestLink r)
      (requestFields r).slaveAddress (requestFields r).functionCode s.config.excCrc out := by
  have violation : (validate r a).ok = false := by
    rw [← Bool.not_eq_true, validate_ok_iff, wrong]
    simp
  have code : excSel s.config (validate r a).reasons = s.config.excCrc :=
    excSel_of_checksumMismatch priority (bne_eq_false_iff_eq.2 address) wrong
  refine ⟨_, serveRequest_of_violation s violation, ?_⟩
  rw [code]
  exact negativeFrame_buildNegative _ _ _ _

/-- R92, R295: DISPATCH of a frame of R92 to the expected address with a wrong CRC16, for every function. -/
theorem serve_serialReqBytes_of_wrong_crc {s : State} {addr func : Byte} {start count crc : Word}
    (loaded : Loaded s) (esa : EsaSet s addr) (priority : s.config.violPriority = defaultPriority)
    (accepts : Accepts s (serialReqBytes addr func start count crc))
    (wrong : crc ≠ crc16 ((serialReqBytes addr func start count crc).take 6)) :
    ∃ out, serve .serial (serialReqBytes addr func start count crc) s = answer (.bytes out) s ∧
      NegativeFrame .serial addr func s.config.excCrc out := by
  rw [serve_of_parse_ok loaded esa accepts (parse_serialReqBytes addr func start count crc)]
  have six : 6 ≤ (serialReqBytes addr func start count crc).length := by simp [serialReqBytes, enc16]
  exact serveRequest_of_checksumViolation priority rfl ((checksumViolation_serial_iff crc six).2 wrong.symm)

/-- Settles O49: each row is DISPATCH of its frame. -/
theorem badChecksumIsAnswered : Obligations.BadChecksumIsAnswered := by
  intro s addr start count crc loaded esa priority
  rw [List.forall_mem_cons, List.forall_mem_singleton]
  exact ⟨serve_serialReqBytes_of_wrong_crc loaded esa priority,
    serve_serialReqBytes_of_wrong_crc loaded esa priority⟩

end Sys2Proof.Machine
end

section
/-! O32 and O33: a loaded engine answers LOOKUP from what the table holds at the key, and from nothing else. -/

namespace Sys2Proof.Machine

open Sys2Proof

/-- An instruction completes in a state with one result. -/
theorem answers_unique {i : Instr} {s : State} {r r' : Result} (h : Answers i s r) (h' : Answers i s r') :
    r = r' := by
  have same_results := congrArg State.results (Host.Outcome.next.inj (h.symm.trans h'))
  simpa using same_results

/-- R233. -/
theorem lookup_refused {s : State} (start count : Word) (not_loaded : s.loaded = false) :
    exec (.lookup start count) s = .refused .notLoaded := if_pos not_loaded

/-- R231: LOOKUP answers what the table holds at the key. -/
theorem lookup_answers_iff {s : State} {start count : Word} {p : Option (List Byte)}
    (loaded : s.loaded = true) :
    Answers (.lookup start count) s (.payload p) ↔ tableRead s.table start count = p := by
  refine ⟨fun answered => ?_, lookup_answers loaded⟩
  exact Result.payload.inj (answers_unique (lookup_answers loaded rfl) answered)

/-- R64: a key of no object reads as "not defined". -/
theorem tableRead_of_miss {m : Memory} {start count : Word}
    (miss : ∀ e ∈ m, ¬ (e.start = start ∧ e.count = count)) : tableRead m start count = none := by
  rw [Option.eq_none_iff_forall_ne_some]
  intro p read
  obtain ⟨e, he, start_eq, count_eq, -⟩ := tableRead_some m start count p read
  exact miss e he ⟨start_eq, count_eq⟩

/-- Settles O32: a table in canonical form reads every object at its key, and nothing at another key. -/
theorem lookupIsByExactKey : Obligations.LookupIsByExactKey := by
  intro s start count
  refine ⟨lookup_refused start count, fun ⟨loaded, wf⟩ => ⟨?_, fun miss => ?_⟩⟩
  · rintro e he rfl rfl
    exact lookup_answers loaded (tableRead_of_mem s.table wf e he)
  · exact lookup_answers loaded (tableRead_of_miss miss)

/-- Settles O33: the payload answered is that of an object, whose count is from 1 to 127 (R33). -/
theorem lookupAnswersTwoBytesARegister : Obligations.LookupAnswersTwoBytesARegister := by
  rintro s start count p ⟨loaded, wf⟩ answered
  obtain ⟨length_eq, one_le, le_127⟩ :=
    tableRead_length s.table wf start count p ((lookup_answers_iff loaded).1 answered)
  exact ⟨length_eq, by omega, by omega⟩

end Sys2Proof.Machine
end

section
/-! O34 and O35: LOAD completes on the lists its loop does not refuse; where the loop refuses, the entry
it stops at shows the defect it names. -/

namespace Sys2Proof.Machine

open Sys2Proof

/-- Settles O34: the list is one LOAD admits, and LOOKUP answers from the table made of it. -/
theorem loadFillsTheTable : Obligations.LoadFillsTheTable := by
  intro s es not_loaded good nodup
  have ok : ∀ e ∈ es, entryOk e = true := fun e he => (entryOk_iff e).2 (good e he)
  refine ⟨_, exec_load_next not_loaded ok nodup, ⟨rfl, Memory.wf_tableOf es ok⟩, rfl, rfl, rfl, rfl,
    fun e he => ?_, fun start count miss => ?_⟩
  · exact lookup_answers rfl (tableRead_tableOf_mem es nodup e he)
  · exact lookup_answers rfl (tableRead_tableOf_none es start count miss)

/-- A key stands twice in a list exactly when more than one entry has the key of some entry. -/
theorem nodup_keys_iff (es : List Entry) :
    (es.map fun e => (e.start, e.count)).Nodup ↔ ∀ e ∈ es, es.countP (sameKey e) ≤ 1 := by
  refine ⟨fun nodup e _ => countP_sameKey_le_one nodup e, fun h => List.nodup_iff_count_le_one.2 fun k => ?_⟩
  by_cases hk : k ∈ es.map fun e => (e.start, e.count)
  · obtain ⟨e, he, rfl⟩ := List.mem_map.1 hk
    rw [List.count, List.countP_map]
    exact h e he
  · rw [List.count_eq_zero_of_not_mem hk]
    exact Nat.zero_le 1

/-- What LOAD's loop refuses a list for is a defect of one of its entries. -/
theorem loadRefusal_some_cases {all es : List Entry} {x : Refusal} (h : loadRefusal all es = some x) :
    (x = .badEntry ∧ ∃ e ∈ es, entryOk e = false) ∨
    (x = .duplicateKey ∧ ∃ e ∈ es, 1 < all.countP (sameKey e)) := by
  induction es with
  | nil => cases h
  | cons e es ih =>
    rw [loadRefusal] at h
    split at h
    case isTrue bad => exact .inl ⟨(Option.some.inj h).symm, e, List.mem_cons_self, bad⟩
    case isFalse =>
      split at h
      case isTrue twice => exact .inr ⟨(Option.some.inj h).symm, e, List.mem_cons_self, twice⟩
      case isFalse =>
        rcases ih h with ⟨hx, y, hy, bad⟩ | ⟨hx, y, hy, twice⟩
        · exact .inl ⟨hx, y, List.mem_cons_of_mem e hy, bad⟩
        · exact .inr ⟨hx, y, List.mem_cons_of_mem e hy, twice⟩

/-- R236. -/
theorem exec_load_of_loaded {s : State} (es : List Entry) (loaded : s.loaded = true) :
    exec (.load es) s = .refused .alreadyLoaded := if_pos loaded

theorem exec_load_of_loadRefusal {s : State} {es : List Entry} {x : Refusal} (not_loaded : s.loaded = false)
    (refused : loadRefusal es es = some x) : exec (.load es) s = .refused x := by
  simp [exec, execLoad, tableLoad, not_loaded, refused]

/-- R235: a list with a defect is refused under the name of a defect it has. -/
theorem exec_load_of_defect {s : State} {es : List Entry} (not_loaded : s.loaded = false)
    (defect : ¬ ((∀ e ∈ es, entryOk e = true) ∧ (es.map fun e => (e.start, e.count)).Nodup)) :
    (exec (.load es) s = .refused .badEntry ∧ ∃ e ∈ es, ¬ entryOk e = true) ∨
    (exec (.load es) s = .refused .duplicateKey ∧ ¬ (es.map fun e => (e.start, e.count)).Nodup) := by
  simp only [nodup_keys_iff, ← forall₂_and, ← loadRefusal_none_iff] at defect ⊢
  obtain ⟨x, refused⟩ := Option.ne_none_iff_exists'.1 defect
  rw [exec_load_of_loadRefusal not_loaded refused]
  rcases loadRefusal_some_cases refused with ⟨rfl, e, he, bad⟩ | ⟨rfl, e, he, twice⟩
  · exact .inl ⟨rfl, e, he, ne_true_of_eq_false bad⟩
  · exact .inr ⟨rfl, fun once => absurd twice (once e he).not_gt⟩

/-- Settles O35: the list is refused under the name of a defect it has, so with one defect alone under the
name of that one. -/
theorem loadRefusesWhatIsNotWellFormed : Obligations.LoadRefusesWhatIsNotWellFormed := by
  intro s es
  simp only [← entryOk_iff]
  refine ⟨exec_load_of_loaded es, fun not_loaded good twice => ?_, fun not_loaded nodup bad => ?_,
    fun not_loaded twice _ => ?_⟩
  · rcases exec_load_of_defect not_loaded fun h => twice h.2 with ⟨-, e, he, bad⟩ | ⟨refused, -⟩
    · exact absurd (good e he) bad
    · exact refused
  · obtain ⟨e, he, not_ok⟩ := bad
    rcases exec_load_of_defect not_loaded fun h => not_ok (h.1 e he) with ⟨refused, -⟩ | ⟨-, twice⟩
    · exact refused
    · exact absurd nodup twice
  · exact (exec_load_of_defect not_loaded fun h => twice h.2).imp And.left And.left

end Sys2Proof.Machine
end

section
/-! O36: after SETESA the engine's premise `EsaSet` holds of the new address, so DISPATCH of a parsed request
is `serveRequest` with that address, whose three ways are each a builder. -/

namespace Sys2Proof.Machine

open Sys2Proof

/-- R210: VALIDATE raises nothing and completes in every state. -/
theorem validate_answers (r : Request) (a : Byte) (s : State) :
    Answers (.validate r a) s (.validation (validate r a)) := rfl

theorem validate_answers_iff {r : Request} {a : Byte} {s : State} {v : ValidationResult} :
    Answers (.validate r a) s (.validation v) ↔ validate r a = v := by
  refine ⟨fun answered => ?_, fun h => h ▸ validate_answers r a s⟩
  exact Result.validation.inj (answers_unique (validate_answers r a s) answered)

/-- R277. -/
theorem serveValid_of_read {r : Request} {s : State} {p : List Byte}
    (read : tableRead s.table (requestFields r).startRegister (requestFields r).registerCount = some p) :
    serveValid r s =
      exec (.buildPos (requestLink r) (requestFields r).slaveAddress (requestFields r).functionCode p) s := by
  rw [serveValid, read]
  rfl

/-- R275. -/
theorem serveValid_of_read_none {r : Request} {s : State}
    (read : tableRead s.table (requestFields r).startRegister (requestFields r).registerCount = none) :
    serveValid r s =
      exec (.buildNeg (requestLink r) (requestFields r).slaveAddress (requestFields r).functionCode 0x02) s := by
  rw [serveValid, read]
  rfl

/-- Settles O36: the state after SETESA is set up with the new address. -/
theorem setEsaIsTheAddressDispatchExpects : Obligations.SetEsaIsTheAddressDispatchExpects := by
  intro s a
  refine ⟨_, rfl, rfl, rfl, rfl, rfl, rfl, rfl, fun tr raw r loaded accepts parsed => ?_⟩
  generalize t_eq : deliver { s with esa := some a } .done = t
  have loaded_t : Loaded t := t_eq ▸ loaded
  have esa_t : EsaSet t a := t_eq ▸ rfl
  have accepts_t : Accepts t raw := t_eq ▸ accepts
  have dispatch_eq : exec (.dispatch tr raw) t = serveRequest r a t :=
    serve_of_parse_ok loaded_t esa_t accepts_t parsed
  simp only [dispatch_eq, validate_answers_iff, lookup_answers_iff loaded_t.1]
  refine ⟨fun other => ?_, ?_⟩
  · obtain ⟨exc, out, answered, frame, -⟩ := serveRequest_of_other_address t other
    exact ⟨exc, out, dispatch_eq.trans answered, frame⟩
  · rintro rfl v rfl
    refine ⟨bne_self_eq_false _, fun valid p read => ?_, fun valid read => ?_, serveRequest_of_violation t⟩
    · exact (serveRequest_of_valid t valid).trans (serveValid_of_read read)
    · exact (serveRequest_of_valid t valid).trans (serveValid_of_read_none read)

end Sys2Proof.Machine
end

section
/-! O38 and O39: BUILD_POS and BUILD_NEG deliver the octets of `responseBytes` and `buildNegative`, which are
the frames of R93 to R96; BUILD_POS splits on whether the payload has a BYTECOUNT (R258). -/

namespace Sys2Proof.Machine

open Sys2Proof

/-- R252, R253. -/
theorem buildPos_answers (link : Link) (addr func : Byte) {p : List Byte} (s : State) (short : p.length ≤ 255) :
    Answers (.buildPos link addr func p) s (.bytes (responseBytes (.positive link addr func p))) :=
  answerPositive_of_le short

/-- R254, R257. -/
theorem buildNeg_answers (link : Link) (addr func exc : Byte) (s : State) :
    Answers (.buildNeg link addr func exc) s (.bytes (buildNegative link addr func exc)) := rfl

/-- Settles O38: a short payload is framed with its length in BYTECOUNT, a long one has no BYTECOUNT. -/
theorem buildPosEmitsThePositiveFrame : Obligations.BuildPosEmitsThePositiveFrame := by
  intro s link addr func p
  constructor
  · intro short
    exact ⟨_, buildPos_answers link addr func s short, positiveFrame_responseBytes link addr func short⟩
  · intro long
    exact answerPositive_refused long

/-- Settles O39: BUILD_NEG never refuses, and its frame carries the function octet with bit 7 set. -/
theorem buildNegEmitsTheNegativeFrame : Obligations.BuildNegEmitsTheNegativeFrame := by
  intro s link addr func exc
  exact ⟨_, buildNeg_answers link addr func exc s, negativeFrame_buildNegative link addr func exc⟩

end Sys2Proof.Machine
end

section
/-! O43 and O44: where DISPATCH stops before it has a request: at a precondition of R279, which is a refusal,
and at a parse error, which is the empty byte sequence. -/

namespace Sys2Proof.Machine

open Sys2Proof

/-- A buffer the engine does not accept fails the `RX_MAX` test. -/
theorem tooLong_of_not_accepts {s : State} {raw : List Byte} (h : ¬ Accepts s raw) :
    tooLong s.config raw.length = true := by
  obtain ⟨m, bound, long⟩ : ∃ m, s.config.rxMax = some m ∧ m < raw.length := by
    simpa [Accepts] using h
  simpa [tooLong, bound] using long

/-- R279: the preconditions in the terms of the launch premises. -/
theorem serve_refuses (tr : Transport) (raw : List Byte) (s : State) :
    (s.loaded = false → serve tr raw s = .refused .notLoaded) ∧
    (s.loaded = true → s.esa = none → serve tr raw s = .refused .esaUnset) ∧
    (∀ a, s.loaded = true → EsaSet s a → ¬ Accepts s raw → serve tr raw s = .refused .bufferTooLong) := by
  obtain ⟨not_loaded, esa_unset, too_long⟩ := serve_refused (tr := tr) (raw := raw) (s := s)
  exact ⟨not_loaded, esa_unset, fun a loaded esa long => too_long a loaded esa (tooLong_of_not_accepts long)⟩

/-- Settles O43: DISPATCH and the four rows are `serve`, the rows of the frame they are encoded as. -/
theorem dispatchRefusesBeforeSetUp : Obligations.DispatchRefusesBeforeSetUp := by
  intro s
  refine ⟨fun tr raw => serve_refuses tr raw s, fun addr tid start count crc extra => ?_⟩
  rw [List.forall_mem_cons, List.forall_mem_cons, List.forall_mem_cons, List.forall_mem_singleton]
  exact ⟨serve_refuses .streaming _ s, serve_refuses .streaming _ s,
    serve_refuses .serial _ s, serve_refuses .serial _ s⟩

/-- R272. -/
theorem serve_of_parse_error {tr : Transport} {raw : List Byte} {e : LocalError} {s : State} {a : Byte}
    (loaded : Loaded s) (esa : EsaSet s a) (accepts : Accepts s raw) (parsed : parse tr raw = .error e) :
    serve tr raw s = answer (.bytes []) s := by
  simp only [serve, loaded.1, show s.esa = some a from esa, tooLong_of_accepts accepts, parsed,
    Bool.true_eq_false, Bool.false_eq_true, if_false]

/-- Settles O44: each condition is one of the parsers' errors. -/
theorem parseErrorGivesNoBytes : Obligations.ParseErrorGivesNoBytes := by
  intro s a raw loaded esa accepts
  refine ⟨fun short => ?_, fun long pid_ne => ?_, fun short => ?_⟩
  · exact serve_of_parse_error loaded esa accepts (parse_streaming_of_short short)
  · have pid : be16 raw 2 ≠ 0 := fun pid_eq => pid_ne (by rw [← be16_toNat, pid_eq]; rfl)
    exact serve_of_parse_error loaded esa accepts (parse_streaming_of_pid_ne long pid)
  · exact serve_of_parse_error loaded esa accepts (parse_serial_of_short short)

end Sys2Proof.Machine
end

section
/-! O45: what a parser, VALIDATE and LOOKUP answer is what the stages of DISPATCH compute, and each way
DISPATCH ends is a builder. -/

namespace Sys2Proof.Machine

open Sys2Proof

theorem runParser_request_iff {tr : Transport} {raw : List Byte} {r : Request} {s : State}
    (accepts : Accepts s raw) : runParser tr raw s = answer (.request r) s ↔ parse tr raw = .ok r := by
  cases parsed : parse tr raw with
  | ok r' => simp [runParser_of_parse_ok accepts parsed]
  | error e => simp [runParser_of_parse_error accepts parsed]

theorem runParser_error_iff {tr : Transport} {raw : List Byte} {e : LocalError} {s : State}
    (accepts : Accepts s raw) : runParser tr raw s = answer (.error e) s ↔ parse tr raw = .error e := by
  cases parsed : parse tr raw with
  | ok r => simp [runParser_of_parse_ok accepts parsed]
  | error e' => simp [runParser_of_parse_error accepts parsed]

/-- Settles O45, stage by stage: parse, validate, look up. -/
theorem dispatchIsTheChainOfUnitOperations : Obligations.DispatchIsTheChainOfUnitOperations := by
  intro s a tr raw loaded esa accepts parser
  have parser_eq : exec parser s = runParser tr raw s := by cases tr <;> rfl
  refine ⟨fun e parser_error => ?_, fun r v parser_request validated => ?_⟩
  · have parsed := (runParser_error_iff accepts).1 (parser_eq.symm.trans parser_error)
    exact serve_of_parse_error loaded esa accepts parsed
  · have parsed := (runParser_request_iff accepts).1 (parser_eq.symm.trans parser_request)
    have dispatch_eq : exec (.dispatch tr raw) s = serveRequest r a s :=
      serve_of_parse_ok loaded esa accepts parsed
    obtain rfl := validate_answers_iff.1 validated
    simp only [dispatch_eq, lookup_answers_iff loaded.1]
    refine ⟨fun valid p read => ?_, fun valid read => ?_, serveRequest_of_violation s⟩
    · exact (serveRequest_of_valid s valid).trans (serveValid_of_read read)
    · exact (serveRequest_of_valid s valid).trans (serveValid_of_read_none read)

end Sys2Proof.Machine
end

section
/-! O46 and O47: EXCSEL is a search through the four kinds in the order of the priority; under the default
priority the search is written out, and DISPATCH of a parsed request answers with what it finds. -/

namespace Sys2Proof.Machine

open Sys2Proof

/-- The kinds of `VIOL_PRIORITY`, the highest priority first. -/
def kindsByPriority (c : Config) : List Violation :=
  [c.violPriority.first, c.violPriority.second, c.violPriority.third, c.violPriority.fourth]

/-- The closed set of kinds (R211). -/
def violationKinds : List Violation :=
  [.lengthMismatch, .checksumMismatch, .addressMismatch, .unsupportedFunction]

theorem mem_violationKinds (k : Violation) : k ∈ violationKinds := by
  cases k <;> decide

/-- R11: four different kinds are all of them. -/
theorem mem_kindsByPriority {c : Config} (nodup : (kindsByPriority c).Nodup) (k : Violation) :
    k ∈ kindsByPriority c := by
  have sub : List.Subperm (kindsByPriority c) violationKinds :=
    nodup.subperm fun k _ => mem_violationKinds k
  have perm : (kindsByPriority c).Perm violationKinds := sub.perm_of_length_le le_rfl
  exact perm.mem_iff.2 (mem_violationKinds k)

theorem kindsByPriority_nodup {c : Config} (wf : configWf c = true) : (kindsByPriority c).Nodup := by
  simp only [configWf, Bool.and_eq_true] at wf
  obtain ⟨⟨-, priority_wf⟩, -⟩ := wf
  exact of_decide_eq_true priority_wf

/-- R210: the set is not empty exactly when a kind is reported. -/
theorem reasonsEmpty_eq_false_iff (v : Reasons) :
    reasonsEmpty v = false ↔ ∃ k, hasViolation v k = true := by
  have any_kind : reasonsEmpty v = !violationKinds.any (hasViolation v) := by
    simp [reasonsEmpty, violationKinds, hasViolation, Bool.or_assoc]
  simp [any_kind, mem_violationKinds]

/-- EXCSEL is the code of the first kind of the priority that is reported (R274). -/
theorem excSel_of_find? {c : Config} {v : Reasons} {k : Violation}
    (found : (kindsByPriority c).find? (hasViolation v) = some k) : excSel c v = violationCode c k := by
  unfold excSel
  split_ifs with first second third
  · obtain rfl : c.violPriority.first = k := by simpa [kindsByPriority, first] using found
    rfl
  · obtain rfl : c.violPriority.second = k := by simpa [kindsByPriority, first, second] using found
    rfl
  · obtain rfl : c.violPriority.third = k := by simpa [kindsByPriority, first, second, third] using found
    rfl
  · obtain ⟨-, rfl⟩ : hasViolation v c.violPriority.fourth = true ∧ c.violPriority.fourth = k := by
      simpa [kindsByPriority, first, second, third] using found
    rfl

/-- A search finds an element before which no element passes the test. -/
theorem find?_first {l : List Violation} {p : Violation → Bool} (nodup : l.Nodup) {k : Violation}
    (found : l.find? p = some k) : ∀ k', l.idxOf k' < l.idxOf k → p k' = false := by
  obtain ⟨-, i, hi, rfl, before⟩ := List.find?_eq_some_iff_getElem.1 found
  intro k' earlier
  rw [nodup.idxOf_getElem] at earlier
  simpa using before (l.idxOf k') earlier

/-- R274: the default order, written out. -/
theorem excSel_of_default {c : Config} (priority : c.violPriority = defaultPriority) (v : Reasons) :
    excSel c v = if v.addressMismatch then c.excAddr else if v.checksumMismatch then c.excCrc
      else if v.unsupportedFunction then c.excFunc else c.excLen := by
  simp only [excSel, priority, defaultPriority, hasViolation, violationCode]

/-- The four outcomes of EXCSEL under the default priority (R274). -/
theorem excSel_default_cases {c : Config} (priority : c.violPriority = defaultPriority) (v : Reasons) :
    (v.addressMismatch = true → excSel c v = c.excAddr) ∧
    (v.addressMismatch = false → v.checksumMismatch = true → excSel c v = c.excCrc) ∧
    (v.addressMismatch = false → v.checksumMismatch = false → v.unsupportedFunction = true →
      excSel c v = c.excFunc) ∧
    (v = ⟨true, false, false, false⟩ → excSel c v = c.excLen) := by
  rw [excSel_of_default priority]
  refine ⟨fun address => ?_, fun address checksum => ?_, fun address checksum function => ?_, ?_⟩
  · rw [if_pos address]
  · simp [address, checksum]
  · simp [address, checksum, function]
  · rintro rfl
    rfl

/-- Settles O46: some kind is reported and every kind has a place in the priority, so the search finds one. -/
theorem exceptionCodeFollowsThePriority : Obligations.ExceptionCodeFollowsThePriority := by
  refine ⟨fun c v priority => excSel_default_cases priority v, fun c v wf nonempty => ?_⟩
  have nodup := kindsByPriority_nodup wf
  obtain ⟨k₀, reported₀⟩ := (reasonsEmpty_eq_false_iff v).1 nonempty
  obtain ⟨k, found⟩ : ∃ k, (kindsByPriority c).find? (hasViolation v) = some k :=
    Option.isSome_iff_exists.1 (List.find?_isSome.2 ⟨k₀, mem_kindsByPriority nodup k₀, reported₀⟩)
  exact ⟨k, List.find?_some found, excSel_of_find? found, find?_first nodup found⟩

/-- R274, R276: a request with a violation is answered with the code EXCSEL gives. -/
theorem dispatch_of_violation {s : State} {a : Byte} {tr : Transport} {raw : List Byte} {r : Request} {exc : Byte}
    (loaded : Loaded s) (esa : EsaSet s a) (accepts : Accepts s raw) (parsed : parse tr raw = .ok r)
    {k : Violation} (reported : hasViolation (validate r a).reasons k = true)
    (code : excSel s.config (validate r a).reasons = exc) :
    ∃ out, Answers (.dispatch tr raw) s (.bytes out) ∧ NegativeFrame (requestLink r)
      (requestFields r).slaveAddress (requestFields r).functionCode exc out := by
  have violation : (validate r a).ok = false := (reasonsEmpty_eq_false_iff _).2 ⟨k, reported⟩
  subst code
  exact ⟨_, (serve_of_parse_ok loaded esa accepts parsed).trans (serveRequest_of_violation s violation),
    negativeFrame_buildNegative _ _ _ _⟩

/-- R273: a request without a violation is looked up. -/
theorem dispatch_of_valid {s : State} {a : Byte} {tr : Transport} {raw : List Byte} {r : Request}
    (loaded : Loaded s) (esa : EsaSet s a) (accepts : Accepts s raw) (parsed : parse tr raw = .ok r)
    (valid : (validate r a).ok = true) : exec (.dispatch tr raw) s = serveValid r s :=
  (serve_of_parse_ok loaded esa accepts parsed).trans (serveRequest_of_valid s valid)

/-- Settles O47: the violations in the order of the default priority, then the lookup. -/
theorem dispatchOutcomeClasses : Obligations.DispatchOutcomeClasses := by
  intro s a tr raw r v loaded esa accepts priority parsed validated
  obtain rfl := validate_answers_iff.1 validated
  obtain ⟨addr_code, crc_code, func_code, len_code⟩ := excSel_default_cases priority (validate r a).reasons
  have violation {k : Violation} {exc : Byte} := dispatch_of_violation (k := k) (exc := exc) loaded esa accepts parsed
  have valid (none_reported : (validate r a).reasons = ⟨false, false, false, false⟩) :=
    dispatch_of_valid loaded esa accepts parsed ((reasonsEmpty_iff _).2 none_reported)
  refine ⟨fun address => ?_, fun address checksum => ?_, fun address checksum function => ?_,
    fun length_only => ?_, fun none_reported miss => ?_, fun none_reported e he start count => ?_⟩
  · exact violation (k := .addressMismatch) address (addr_code address)
  · exact violation (k := .checksumMismatch) checksum (crc_code address checksum)
  · exact violation (k := .unsupportedFunction) function (func_code address checksum function)
  · exact violation (k := .lengthMismatch) (congrArg Reasons.lengthMismatch length_only) (len_code length_only)
  · obtain ⟨out, answered, frame⟩ := serveValid_of_miss miss
    exact ⟨out, (valid none_reported).trans answered, frame⟩
  · obtain ⟨out, answered, frame⟩ := serveValid_of_mem loaded he start count
    exact ⟨out, (valid none_reported).trans answered, frame⟩

end Sys2Proof.Machine
end

section
/-! O53: the frame of a positive response, read back: BYTECOUNT and the payload at their offsets. -/

namespace Sys2Proof.Machine

open Sys2Proof

/-- R33. -/
theorem payload_length_of_mem {s : State} (loaded : Loaded s) {e : Entry} (he : e ∈ s.table) :
    e.payload.length = 2 * e.count.toNat :=
  ((entryOk_iff e).1 (((Memory.wf_iff s.table).1 loaded.2).1 e he)).2.2

/-- R93: BYTECOUNT stands at offset 8, and the payload is all that follows. -/
theorem PositiveFrame.streaming_payload {tid : Word} {addr func : Byte} {p out : List Byte}
    (frame : PositiveFrame (.streaming tid) addr func p out) :
    (byteAt out 8).toNat = p.length ∧ out.drop 9 = p := by
  obtain ⟨t1, t0, l1, l0, n, rfl, -, -, byte_count⟩ := frame
  exact ⟨byte_count, rfl⟩

/-- R95: BYTECOUNT stands at offset 2, and the payload is what it counts. -/
theorem PositiveFrame.serial_payload {addr func : Byte} {p out : List Byte}
    (frame : PositiveFrame .serial addr func p out) :
    (byteAt out 2).toNat = p.length ∧ (out.drop 3).take p.length = p := by
  obtain ⟨n, k1, k0, rfl, byte_count, -⟩ := frame
  exact ⟨byte_count, List.take_left⟩

/-- R251, R270: a request is answered on the link of its transport. -/
theorem requestLink_of_parse_streaming {raw : List Byte} {r : Request} (parsed : parse .streaming raw = .ok r) :
    ∃ tid, requestLink r = .streaming tid := by
  simp only [parse, parseStreaming] at parsed
  split at parsed
  · cases parsed
  · split at parsed <;> cases parsed
    exact ⟨_, rfl⟩

theorem requestLink_of_parse_serial {raw : List Byte} {r : Request} (parsed : parse .serial raw = .ok r) :
    requestLink r = .serial := by
  simp only [parse, parseSerial] at parsed
  split at parsed <;> cases parsed
  rfl

/-- R98. -/
theorem supportedFunction_iff (func : Byte) : supportedFunction func = true ↔ func = 0x03 ∨ func = 0x04 := by
  simp [supportedFunction]

/-- Settles O53: the payload of the object is what the frame of its transport carries. -/
theorem positiveResponseCarriesTheTableEntry : Obligations.PositiveResponseCarriesTheTableEntry := by
  intro s a tr raw r loaded esa accepts parsed valid f e he start count
  obtain ⟨-, -, -, supported⟩ := (validate_ok_iff r a).1 valid
  obtain ⟨out, answered, frame⟩ := serveValid_of_mem loaded he start count
  have payload_length : e.payload.length = 2 * f.registerCount.toNat :=
    count ▸ payload_length_of_mem loaded he
  refine ⟨out, (dispatch_of_valid loaded esa accepts parsed valid).trans answered, frame,
    (supportedFunction_iff _).1 supported, ?_⟩
  rw [← payload_length]
  cases tr with
  | streaming =>
    obtain ⟨tid, link⟩ := requestLink_of_parse_streaming parsed
    rw [link] at frame
    exact frame.streaming_payload
  | serial =>
    rw [requestLink_of_parse_serial parsed] at frame
    exact frame.serial_payload

end Sys2Proof.Machine
end

section
/-! O51: an answer is repeated in every state with the same persistent triple and parameters, which no
instruction but LOAD and SETESA changes. -/

namespace Sys2Proof.Machine

open Sys2Proof

theorem samePersistent_deliver (s : State) (r : Result) : SamePersistent s (deliver s r) :=
  ⟨rfl, rfl, rfl, rfl⟩

theorem SamePersistent.trans {s t u : State} (hst : SamePersistent s t) (htu : SamePersistent t u) :
    SamePersistent s u := by
  obtain ⟨esa₁, loaded₁, table₁, config₁⟩ := hst
  obtain ⟨esa₂, loaded₂, table₂, config₂⟩ := htu
  exact ⟨esa₂.trans esa₁, loaded₂.trans loaded₁, table₂.trans table₁, config₂.trans config₁⟩

/-- R46: an instruction other than LOAD and SETESA that completes has delivered a result and no more. -/
theorem exec_next_of_no_write {i : Instr} {s t : State} (no_load : ∀ es, i ≠ .load es)
    (no_setEsa : ∀ a, i ≠ .setEsa a) (h : exec i s = .next t) : ∃ r, t = deliver s r := by
  rcases exec_next_cases h with ⟨r, rfl, -, -⟩ | ⟨es, rfl, -, -, -⟩ | ⟨a, rfl, -⟩
  · exact ⟨r, rfl⟩
  · exact absurd rfl (no_load es)
  · exact absurd rfl (no_setEsa a)

/-- R278, R23: what an instruction other than LOAD and SETESA answers, it answers in every state that agrees
on the persistent triple and the parameters. -/
theorem answers_of_samePersistent {i : Instr} {s s' : State} {r : Result} (no_load : ∀ es, i ≠ .load es)
    (no_setEsa : ∀ a, i ≠ .setEsa a) (answered : Answers i s r) (same : SamePersistent s s') :
    Answers i s' r := by
  obtain ⟨t', r', next', -, results, results'⟩ := (exec_sameAnswer i same).next answered
  obtain ⟨r'', rfl⟩ := exec_next_of_no_write no_load no_setEsa next'
  obtain rfl : r = r' := by simpa using results
  obtain rfl : r'' = r := by simpa using results'
  exact next'

/-- Settles O51: the first DISPATCH and the instruction after it deliver a result each and no more. -/
theorem dispatchIsIdempotent : Obligations.DispatchIsIdempotent := by
  intro s t u tr raw i r dispatched delivered no_load no_setEsa ran
  have dispatch_no_load (es : List Entry) : Instr.dispatch tr raw ≠ .load es := nofun
  have dispatch_no_setEsa (a : Byte) : Instr.dispatch tr raw ≠ .setEsa a := nofun
  obtain ⟨r₁, rfl⟩ := exec_next_of_no_write dispatch_no_load dispatch_no_setEsa dispatched
  obtain rfl : r₁ = r := by simpa using delivered
  obtain ⟨r₂, rfl⟩ := exec_next_of_no_write no_load no_setEsa ran
  have again {s' : State} (same : SamePersistent s s') : Answers (.dispatch tr raw) s' r₁ :=
    answers_of_samePersistent dispatch_no_load dispatch_no_setEsa dispatched same
  have same_t := samePersistent_deliver s r₁
  exact ⟨again same_t, again (same_t.trans (samePersistent_deliver _ r₂)), fun s' => again⟩

end Sys2Proof.Machine
end

section
/-! O7, O30 and O52: the three ways an operation of the engine ends are a result, a local error delivered as
one, and a refusal (R298, R299); DISPATCH of a parsed request always ends in a frame, whose exception code,
if it has one, is of a short list. -/

namespace Sys2Proof.Machine

open Sys2Proof

/-- What ends in a result or in a refusal ends in no fault. -/
theorem SameAnswer.ne_fault {s₁ s₂ : State} {a b : Answer} (h : SameAnswer s₁ s₂ a b) (f : Fault) :
    a ≠ .fault f := by
  cases h with
  | delivers => nofun
  | refused => nofun

theorem SamePersistent.refl (s : State) : SamePersistent s s := ⟨rfl, rfl, rfl, rfl⟩

theorem exec_ne_fault (i : Instr) (s : State) (f : Fault) : exec i s ≠ .fault f :=
  (exec_sameAnswer i (.refl s)).ne_fault f

/-- Settles O7: LOAD and SETESA, which alone write persistent state, deliver `done` and no error. -/
theorem errorsLeaveNoTrace : Obligations.ErrorsLeaveNoTrace := by
  refine fun i s => ⟨exec_ne_fault i s, fun t e ran delivered => ?_⟩
  rcases exec_next_cases ran with ⟨r, rfl, -, -⟩ | ⟨es, -, -, -, rfl⟩ | ⟨a, -, rfl⟩
  · exact samePersistent_deliver s r
  · simp at delivered
  · simp at delivered

/-! DISPATCH of a parsed request. -/

/-- The exception codes DISPATCH sends (R302). -/
def sentCodes (c : Config) : List Byte := [0x02, c.excAddr, c.excCrc, c.excFunc, c.excLen]

theorem violationCode_mem_sentCodes (c : Config) (k : Violation) : violationCode c k ∈ sentCodes c := by
  cases k <;> simp [violationCode, sentCodes]

/-- R274: whatever the priority and the reasons, EXCSEL gives the code of some kind. -/
theorem excSel_mem_sentCodes (c : Config) (v : Reasons) : excSel c v ∈ sentCodes c := by
  unfold excSel
  split_ifs <;> exact violationCode_mem_sentCodes c _

/-- R280, R302: a parsed request is answered with the frame of an object of TABLE, or with a negative frame
whose code is one of those. -/
theorem serveRequest_answers_frame {s : State} (r : Request) (a : Byte) (loaded : Loaded s) :
    let f := requestFields r
    ∃ out, serveRequest r a s = answer (.bytes out) s ∧
      ((∃ e ∈ s.table, PositiveFrame (requestLink r) f.slaveAddress f.functionCode e.payload out) ∨
        ∃ exc ∈ sentCodes s.config, NegativeFrame (requestLink r) f.slaveAddress f.functionCode exc out) := by
  intro f
  cases valid : (validate r a).ok with
  | false =>
    exact ⟨_, serveRequest_of_violation s valid, .inr ⟨_, excSel_mem_sentCodes _ _,
      negativeFrame_buildNegative _ _ _ _⟩⟩
  | true =>
    rw [serveRequest_of_valid s valid]
    by_cases hit : ∃ e ∈ s.table, e.start = f.startRegister ∧ e.count = f.registerCount
    · obtain ⟨e, he, start, count⟩ := hit
      obtain ⟨out, answered, frame⟩ := serveValid_of_mem loaded he start count
      exact ⟨out, answered, .inl ⟨e, he, frame⟩⟩
    · obtain ⟨out, answered, frame⟩ := serveValid_of_miss fun e he key => hit ⟨e, he, key⟩
      exact ⟨out, answered, .inr ⟨0x02, List.mem_cons_self, frame⟩⟩

/-! The buffers that the parsers and DISPATCH take (R41, R299). -/

theorem runParser_of_not_accepts {s : State} {b : List Byte} (tr : Transport) (long : ¬ Accepts s b) :
    runParser tr b s = .refused .bufferTooLong := if_pos (tooLong_of_not_accepts long)

theorem runParser_completes {s : State} {b : List Byte} (tr : Transport) (accepts : Accepts s b) :
    ∃ r, runParser tr b s = answer r s := by
  cases parsed : parse tr b with
  | ok r => exact ⟨_, runParser_of_parse_ok accepts parsed⟩
  | error e => exact ⟨_, runParser_of_parse_error accepts parsed⟩

theorem serve_completes {s : State} {a : Byte} {raw : List Byte} (tr : Transport) (loaded : Loaded s)
    (esa : EsaSet s a) (accepts : Accepts s raw) : ∃ out, serve tr raw s = answer (.bytes out) s := by
  cases parsed : parse tr raw with
  | ok r =>
    obtain ⟨out, answered, -⟩ := serveRequest_answers_frame r a loaded
    exact ⟨out, (serve_of_parse_ok loaded esa accepts parsed).trans answered⟩
  | error e => exact ⟨[], serve_of_parse_error loaded esa accepts parsed⟩

/-- Settles O30: all three test the length before they read the buffer. -/
theorem buffersBeyondRxMaxAreRefused : Obligations.BuffersBeyondRxMaxAreRefused := by
  refine fun s b => ⟨fun long => ⟨?_, ?_, fun a loaded esa tr => ?_⟩,
    fun accepts => ⟨?_, ?_, fun a loaded esa tr => ?_⟩⟩
  · exact runParser_of_not_accepts .streaming long
  · exact runParser_of_not_accepts .serial long
  · obtain ⟨-, -, too_long⟩ := serve_refuses tr b s
    exact too_long a loaded.1 esa long
  · exact runParser_completes .streaming accepts
  · exact runParser_completes .serial accepts
  · exact serve_completes tr loaded esa accepts

/-- Settles O52: a parse error gives no bytes, and a parsed request a frame of R302. -/
theorem dispatchSendsOnlyItsCodes : Obligations.DispatchSendsOnlyItsCodes := by
  intro s tr raw out loaded dispatched
  obtain ⟨-, a, -, -, ⟨e, -, delivered⟩ | ⟨r, -, served⟩⟩ := serve_next dispatched
  · obtain rfl : out = [] := by simpa [deliver] using delivered
    exact .inl rfl
  · obtain ⟨out', answered, frame⟩ := serveRequest_answers_frame r a loaded
    obtain rfl : out = out' := by simpa [deliver] using answer_next (answered.symm.trans served)
    right
    rcases frame with ⟨e, he, positive⟩ | ⟨exc, sent, negative⟩
    · exact .inl ⟨e, he, _, _, _, positive⟩
    · exact .inr ⟨_, _, _, exc, sent, negative⟩

end Sys2Proof.Machine
end

section
/-! O1 and O55: what holds with no set-up. The reset state meets the invariant by the defaults of R11; and the
operations that read neither ESA, LOADED nor TABLE complete: the builders and the codec on well-formed
operands, the parsers on a buffer within `RX_MAX`, CRC16, WIDTHOF and VALIDATE always. -/

namespace Sys2Proof.Machine

open Sys2Proof

/-- R11: no two of the default keys are alike; `RX_MAX` is unbounded and TABLE_VALUES left open. -/
theorem configWf_defaultConfig : configWf defaultConfig = true := by
  have keys_wf : tableValuesWf defaultConfig = true := by
    rw [tableValuesWf, Bool.and_eq_true]
    exact ⟨decide_eq_true defaultTableKeys_nodup, rfl⟩
  have priority_wf : priorityWf defaultConfig = true := by decide
  rw [configWf, keys_wf, priority_wf]
  rfl

/-- Settles O1: the empty table is canonical, and the parameters are the defaults. -/
theorem resetStateMeetsTheInvariant : Obligations.ResetStateMeetsTheInvariant :=
  ⟨⟨Memory.wf_nil, fun _ => rfl, configWf_defaultConfig⟩, rfl, rfl, rfl⟩

theorem tagUseWf_widthOf (tag : Word) : tagUseWf tag .widthOf = true := by
  unfold tagUseWf
  cases tagOfWord tag <;> rfl

/-- R141, R144, R152: the codec completes on what is well-formed for the tag word. -/
theorem runCodec_completes {tag : Word} {use : TagUse} (s : State) (wf : tagUseWf tag use = true) :
    ∃ r, runCodec tag use s = answer r s := by
  cases spells : tagOfWord tag with
  | none => exact ⟨_, runCodec_of_none use spells⟩
  | some t =>
    simp only [tagUseWf, spells] at wf
    cases use with
    | widthOf => exact ⟨_, runCodec_widthOf spells⟩
    | decode b => exact ⟨_, runCodec_decode spells wf⟩
    | encode v =>
      obtain ⟨b, encoded⟩ := Option.isSome_iff_exists.1 ((encodeValue_isSome s.config t v).trans wf)
      exact ⟨_, runCodec_encode spells encoded⟩

/-- Settles O55, by the shared operation that each instruction runs. -/
theorem unitOperationsNeedNoSetUp : Obligations.UnitOperationsNeedNoSetUp := by
  intro s i wf no_lookup no_load no_setEsa no_dispatch no_streamReq no_serialReq accepts
  cases i with
  | streamRead03 | streamRead04 => exact absurd rfl no_streamReq
  | serialRead03 | serialRead04 => exact absurd rfl no_serialReq
  | lookup start count => exact absurd rfl (no_lookup start count)
  | load es => exact absurd rfl (no_load es)
  | setEsa a => exact absurd rfl (no_setEsa a)
  | dispatch tr raw => exact absurd rfl (no_dispatch tr raw)
  | streamPos | streamNeg | serialPos | serialNeg => exact ⟨_, responseRow_answers s wf (by simp [encode])⟩
  | exc01 | exc02 | exc03 | exc04 | exc05 | exc06 | exc07 | exc08 | exc0A | exc0B => exact ⟨_, rfl⟩
  | tagBool | tagInt8 | tagUint8 | tagInt16 | tagUint16 | tagInt32 | tagUint32 | tagInt64 | tagUint64
  | tagReal32 | tagReal64 | tagString | decode | encode => exact runCodec_completes s wf
  | widthOf tag => exact runCodec_completes s (tagUseWf_widthOf tag)
  | crc16 => exact ⟨_, rfl⟩
  | parseS b => exact runParser_completes .streaming (accepts b (.inl rfl))
  | parseR b => exact runParser_completes .serial (accepts b (.inr rfl))
  | validate r a => exact ⟨_, validate_answers r a s⟩
  | buildPos link addr func p => exact ⟨_, buildPos_answers link addr func s (of_decide_eq_true wf)⟩
  | buildNeg link addr func exc => exact ⟨_, buildNeg_answers link addr func exc s⟩

end Sys2Proof.Machine
end
